-- ==== Sys2Proof/Word.lean ====
section
/-! DEFINITION. Widths of LZW-CORE's values (00_scope R10, R11) and the formats of its two memory
words: the trie node (40_prefix_dictionary R111) and the code-table entry (41_code_table R136).
Every value is unsigned; nothing is ever sign-extended (R11). -/

namespace Sys2Proof

/-- A Symbol: "a single byte (0–255)" (R11). -/
abbrev Byte := BitVec 8

/-- A code word, `k[11:0]` (R81); also a trie link, whose NIL is 0x100 (R111). -/
abbrev Code := BitVec 12

/-- A length register of the datapath, 12 bits (R20: BEST_LEN, SP). -/
abbrev Len := BitVec 12

/-- The counter NEXT_CODE, 13 bits so that it can hold LIMIT = 4096 (R10, R31). -/
abbrev Counter := BitVec 13

/-- A host register word, and an input offset or length: 32 bits (R10). -/
abbrev Word := BitVec 32

/-- A register index of the register port, 4 bits (R221). -/
abbrev RegIdx := BitVec 4

/-- A sequence of bytes (R12). The empty list is no Sequence; no map of the model binds it. -/
abbrev Seq := List Byte

/-- One trie node of the arena (R111). -/
structure Node where
  /-- the byte discriminator -/
  c    : Byte
  /-- link to the siblings with a smaller byte, NIL if none -/
  lo   : Code
  /-- link to the root of the children, NIL if none -/
  eq   : Code
  /-- link to the siblings with a greater byte, NIL if none -/
  hi   : Code
  /-- this node ends a key (always true, R120) -/
  term : Bool
  /-- the code of the key that ends here -/
  code : Code
deriving DecidableEq, Repr, Inhabited

/-- One entry of the chained code table (R136). -/
structure TabEntry where
  /-- the field `prefix`: the code this entry extends by one byte, NIL for codes 0..255 -/
  pre    : Code
  /-- the last byte of the sequence -/
  suffix : Byte
  /-- the first byte of the sequence -/
  first  : Byte
  /-- the length of the sequence -/
  len    : Len
deriving DecidableEq, Repr, Inhabited

end Sys2Proof
end

