-- ==== Sys2Proof/Config.lean ====
section
/-! DEFINITION. The fixed parameters of the hardware (00_scope R8), the open parameters that no
rule depends on (20_memory R70), and the free values: constants with no body, which nothing can
evaluate, standing for every value the spec leaves unspecified. -/

namespace Sys2Proof.Config

/-! ## Fixed parameters (R8) -/

/-- R: the number of byte values; codes 0..255 are pre-seeded. -/
def alphabet : Nat := 256

/-- W: the code width in bits. -/
def codeWidth : Nat := 12

/-- EOS: the End-Of-Stream sentinel, never bound to a sequence. -/
def eos : Code := 0x100

/-- NIL, the absent link or absent chain pointer: encoded as 0x100 (R111, R136). -/
def nil : Code := 0x100

/-- FIRST_FREE: the first code assigned to a learned sequence. -/
def firstFree : Counter := 257

/-- LIMIT: the value of NEXT_CODE that means "code space exhausted". -/
def limit : Counter := 4096

/-- MAX_CODE: the highest code that can be assigned. -/
def maxCode : Nat := 4095

/-- MAX_LEARNED: the number of learned codes 257..4095. -/
def maxLearned : Nat := 3839

/-- MAX_SEQ_LEN: the longest sequence a code can stand for, and the size of the LIFO (R41). -/
def maxSeqLen : Nat := 3840

/-- The number of trie nodes and of table entries (R41). -/
def arenaSize : Nat := 4096

/-! ## Command words (R84) -/

/-- The command word COMPRESS. -/
def opCompress : Word := 0x0000002D

/-- The command word EXPAND. -/
def opExpand : Word := 0x0000002B

/-! ## Open parameters -/

/-- The capacity N_MAX that `State.reset` carries. DESIGN CHOICE (notes/assumptions/1.md): the spec
leaves N_MAX open (R9); every other statement holds for every value the state carries. -/
def nMaxAtReset : Word := 0x00800000

/-- REG_BASE: where the register indices sit in the host's address space. OPEN; "no rule depends on
them" (R70), so nothing of the model reads it (notes/assumptions/19.md). -/
opaque regBase : Nat

/-- INBUF_BASE: where INBUF sits in the host's address space. OPEN, as `regBase`. -/
opaque inbufBase : Nat

/-! ## Free values -/

/-- The byte INBUF holds at an offset nothing has written since the power-up or reset numbered
`epoch` (R222, R280, U7): any value. Arguments: epoch, offset. -/
opaque freeInbuf : Nat → Nat → Byte

/-- The content of a trie node not yet written (R41, U6): any value. Arguments: epoch, index. -/
opaque freeNode : Nat → Nat → Node

/-- The content of a table entry not yet written (R41, U6): any value. Arguments: epoch, index. -/
opaque freeTab : Nat → Nat → TabEntry

/-- The content of a LIFO byte not yet written (R41, U6): any value. Arguments: epoch, index. -/
opaque freeLifo : Nat → Nat → Byte

/-- The value a host register read returns while a run is in progress, where R33 leaves it
unspecified. Argument: the number of the draw. -/
opaque freeRead : Nat → Word

/-- The codes of an infinite code source about which nothing is known (R223). Arguments: the name
of the source, the position. -/
opaque freeCode : Nat → Nat → Code

end Sys2Proof.Config
end

