-- ==== Sys2Proof/Syntax.lean ====
section
/-! DEFINITION. The instructions of LZW-CORE: one constructor per row of spec/opcode_table.json
(30_encoding R87). Four are command words (CMD32) the host writes to CMD; seven are code words
(CW12) that expand reads and executes. -/

namespace Sys2Proof

/-- The eleven rows of the opcode map (R87). -/
inductive Instr where
  /-- CMD_COMPRESS: host write of 0x0000002D to CMD, not busy (R160). -/
  | cmdCompress
  /-- CMD_EXPAND: host write of 0x0000002B to CMD, not busy (R190). -/
  | cmdExpand
  /-- CMD_INVALID: host write of any other word to CMD, not busy (R231). -/
  | cmdInvalid (op : Word)
  /-- CMD_WHILE_BUSY: host write of any word to CMD while a run is in progress (R232). -/
  | cmdWhileBusy (op : Word)
  /-- CW_FIRST_EOS: the first code is 0x100 (R193). -/
  | cwFirstEos
  /-- CW_FIRST_LIT: the first code is 0x000..0x0FF; its operand is the byte `k[7:0]` (R194, R83). -/
  | cwFirstLit (b : Byte)
  /-- CW_FIRST_BAD: the first code is 0x101..0xFFF (R195). -/
  | cwFirstBad (k : Code)
  /-- CW_NEXT_EOS: a later code is 0x100 (R198). -/
  | cwNextEos
  /-- CW_NEXT_HIT: a later code other than 0x100 and below NEXT_CODE (R199). -/
  | cwNextHit (k : Code)
  /-- CW_NEXT_SELFREF: a later code equal to NEXT_CODE (R200). -/
  | cwNextSelfref (k : Code)
  /-- CW_NEXT_BAD: a later code above NEXT_CODE (R201). -/
  | cwNextBad (k : Code)
deriving DecidableEq, Repr

end Sys2Proof
end

