-- ==== Sys2Proof/WellFormed.lean ====
section
/-! DEFINITION. Which terms of `Instr` stand for a row of the opcode map (30_encoding R87): the
conditions on the operands alone (`Instr.wellFormed`), and those on the context that reads the
word (`Instr.fits`). -/

namespace Sys2Proof

/-- The context in which a word is decoded: the column "context" of the opcode map (R87). -/
inductive Ctx where
  /-- a host write to CMD while STATE is IDLE, DONE or FAULT -/
  | cmdFree
  /-- a host write to CMD while STATE is COMPRESSING or EXPANDING -/
  | cmdBusy
  /-- the first code of an expand run (phase X_FIRST) -/
  | first
  /-- a later code (phases X_READ and X_RESOLVE), with NEXT_CODE at that moment -/
  | next (nextCode : Counter)
deriving DecidableEq, Repr

/-- The operand conditions of a row that hold in every context: CMD_INVALID's "OP not in
{0x2D, 0x2B}", CW_FIRST_BAD's "k >= 0x101", CW_NEXT_HIT's "k != 0x100". NEXT_CODE is at least 257
whenever a later code is read (R31), so CW_NEXT_SELFREF has k >= 257 and CW_NEXT_BAD k >= 258. -/
def Instr.wellFormed : Instr → Bool
  | .cmdCompress => true
  | .cmdExpand => true
  | .cmdInvalid op => op != Config.opCompress && op != Config.opExpand
  | .cmdWhileBusy _ => true
  | .cwFirstEos => true
  | .cwFirstLit _ => true
  | .cwFirstBad k => decide (257 ≤ k.toNat)
  | .cwNextEos => true
  | .cwNextHit k => k != Config.eos
  | .cwNextSelfref k => decide (257 ≤ k.toNat)
  | .cwNextBad k => decide (258 ≤ k.toNat)

/-- A context is legal when its NEXT_CODE has a value it can have while codes are read:
257..4096 (R31, R43). -/
def Ctx.legal : Ctx → Bool
  | .next nc => decide (257 ≤ nc.toNat) && decide (nc.toNat ≤ 4096)
  | _ => true

/-- `c` reads a later code, and its NEXT_CODE passes `test`. -/
def Ctx.nextWith (c : Ctx) (test : Counter → Bool) : Bool :=
  match c with
  | .cmdFree => false
  | .cmdBusy => false
  | .first => false
  | .next nc => test nc

/-- The row of `i` belongs to context `c` and its condition there holds (R86, R87). -/
def Instr.fits (i : Instr) (c : Ctx) : Bool :=
  match i with
  | .cmdCompress => c == .cmdFree
  | .cmdExpand => c == .cmdFree
  | .cmdInvalid op => c == .cmdFree && op != Config.opCompress && op != Config.opExpand
  | .cmdWhileBusy _ => c == .cmdBusy
  | .cwFirstEos => c == .first
  | .cwFirstLit _ => c == .first
  | .cwFirstBad k => c == .first && decide (257 ≤ k.toNat)
  | .cwNextEos => c.nextWith fun _ => true
  | .cwNextHit k => c.nextWith fun nc => k != Config.eos && decide (k.toNat < nc.toNat)
  | .cwNextSelfref k => c.nextWith fun nc => k != Config.eos && decide (k.toNat = nc.toNat)
  | .cwNextBad k => c.nextWith fun nc => k != Config.eos && decide (nc.toNat < k.toNat)

end Sys2Proof
end

