-- ==== Sys2Proof/Decode.lean ====
section
/-! DEFINITION. Decoding and encoding of command words and code words (30_encoding R81 to R87).
What a word means depends on the context that reads it: a command word on whether a run is in
progress, a code word on the phase and on NEXT_CODE. So `decode` takes the context. Every command
word and every code word decodes to exactly one row (R86); what is rejected, by name, is a word
that is neither a 32-bit command word nor a 12-bit code word. -/

namespace Sys2Proof

/-- A word as one of the two formats (R80): CMD32 on the register port, CW12 on the code source. -/
inductive EncWord where
  /-- a command word, `OP[31:0]` (R84) -/
  | cmd (op : Word)
  /-- a code word, `k[11:0]` (R81) -/
  | code (k : Code)
deriving DecidableEq, Repr

/-- Why a word is rejected. -/
inductive DecodeError where
  /-- the width is neither 32 (CMD32) nor 12 (CW12, given as 12 bits or as two bytes) (R90) -/
  | noSuchFormat (nbits : Nat)
  /-- a number that does not fit the format's width -/
  | tooWide (nbits w : Nat)
  /-- a code word in a context that reads command words, or the reverse: nothing reads a code as
  bytes or bytes as a code (R65) -/
  | wrongPort
deriving DecidableEq, Repr

/-- A command word written while no run is in progress: OP compared whole (R84, R230). -/
def decodeCmdFree (op : Word) : Instr :=
  if op = Config.opCompress then .cmdCompress
  else if op = Config.opExpand then .cmdExpand
  else .cmdInvalid op

/-- A command word written to CMD: while a run is in progress "the value is not decoded" (R232). -/
def decodeCmd (busy : Bool) (op : Word) : Instr :=
  if busy then .cmdWhileBusy op else decodeCmdFree op

/-- The first code of a stream, in the order of R86: EOS, then LIT, then the rest. -/
def decodeFirst (k : Code) : Instr :=
  if k = Config.eos then .cwFirstEos
  else if k.toNat ≤ 0xFF then .cwFirstLit (k.setWidth 8)
  else .cwFirstBad k

/-- A later code, in the order of R86: EOS, below NEXT_CODE, equal to it, above it. -/
def decodeNext (nextCode : Counter) (k : Code) : Instr :=
  if k = Config.eos then .cwNextEos
  else if k.toNat < nextCode.toNat then .cwNextHit k
  else if k.toNat = nextCode.toNat then .cwNextSelfref k
  else .cwNextBad k

/-- Decoding of a word in the context that reads it. -/
def decode : Ctx → EncWord → Except DecodeError Instr
  | .cmdFree, .cmd op => .ok (decodeCmdFree op)
  | .cmdBusy, .cmd op => .ok (.cmdWhileBusy op)
  | .first, .code k => .ok (decodeFirst k)
  | .next nc, .code k => .ok (decodeNext nc k)
  | .cmdFree, .code _ => .error .wrongPort
  | .cmdBusy, .code _ => .error .wrongPort
  | .first, .cmd _ => .error .wrongPort
  | .next _, .cmd _ => .error .wrongPort

/-- The word with number `w`, of a width of `nbits`: 32 for CMD32; 12, or 16 (whole bytes), for
CW12. Bit 0 is the least significant bit of OP or of k. -/
def readWord (nbits w : Nat) : Except DecodeError EncWord :=
  if nbits = 32 then
    if w < 2 ^ 32 then .ok (.cmd (BitVec.ofNat 32 w)) else .error (.tooWide nbits w)
  else if nbits = 12 ∨ nbits = 16 then
    if w < 2 ^ 12 then .ok (.code (BitVec.ofNat 12 w)) else .error (.tooWide nbits w)
  else .error (.noSuchFormat nbits)

/-- The context a bare table word is read in: a command word as a write to an engine that is not
busy, a code word as the first code of a stream (notes/assumptions/12.md: a bare number carries no
context, and these are the contexts of the first instruction after reset). -/
def EncWord.tableCtx : EncWord → Ctx
  | .cmd _ => .cmdFree
  | .code _ => .first

/-- The instruction the decoder reads from a table word: `none` where it refuses. -/
def decodeTableWord (nbits w : Nat) : Option Instr :=
  match readWord nbits w with
  | .ok e => (decode e.tableCtx e).toOption
  | .error _ => none

/-! ## Encoding -/

/-- The word of an instruction (R84, R87): the fixed value of its row, or its operand. -/
def encode : Instr → EncWord
  | .cmdCompress => .cmd 0x0000002D
  | .cmdExpand => .cmd 0x0000002B
  | .cmdInvalid op => .cmd op
  | .cmdWhileBusy op => .cmd op
  | .cwFirstEos => .code 0x100
  | .cwFirstLit b => .code (b.setWidth 12)
  | .cwFirstBad k => .code k
  | .cwNextEos => .code 0x100
  | .cwNextHit k => .code k
  | .cwNextSelfref k => .code k
  | .cwNextBad k => .code k

end Sys2Proof
end

