-- ==== Sys2Proof/Machine/State.lean ====
section
/-! DEFINITION. The state of LZW-CORE as plain data (10_state): the host-visible registers, the FSM
phase, the datapath registers, the four memories, the ports, and the model's own fields (what has
been observed, which agent moves next, the counters that name free values). Also the reasons a step
of the model can stop, and the state after reset (70_reset R280). -/

namespace Sys2Proof.Machine

/-- The FSM phases (R39). The binary encoding of the phase is not observable, so it has none here. -/
inductive Phase where
  | idle
  | cSeed | cMatch | cWalk | cEmit | cGrow | cAdv | cEos | cClose
  | xSeed | xFirst | xEmit | xPush | xPop | xRead | xResolve | xGrow | xAdv | xClose
  | done
  | fault
deriving DecidableEq, Repr

/-- The fault causes of STATUS.CAUSE (R251). The codes 6..15 are never produced (R25). -/
inductive Cause where
  | none
  | usage
  | malformed
  | truncated
  | cmdBusy
  | length
deriving DecidableEq, Repr

/-- MISS_DIR: which link of MISS_NODE the walk fell off (R20). -/
inductive Dir where
  | lo
  | eq
  | hi
deriving DecidableEq, Repr

/-- An output event of the sink port (R91). -/
inductive Event where
  | code (c : Code)
  | byte (b : Byte)
  | close
  | abort
deriving DecidableEq, Repr

/-- How a code source goes on after its listed codes (R223: "a finite or infinite sequence"). -/
inductive SourceTail where
  /-- it ends: the source is finite -/
  | ends
  /-- it repeats the codes `c :: cs` for ever -/
  | repeats (c : Code) (cs : List Code)
  /-- it goes on for ever with codes about which nothing is known (`Config.freeCode name`) -/
  | unknown (name : Nat)
deriving DecidableEq, Repr

/-- A code source (R223): its content is fixed once it is attached. -/
structure CodeSource where
  codes : List Code
  tail  : SourceTail
deriving DecidableEq, Repr

/-- A transaction of the host (R220, R240): each is atomic. -/
inductive HostMove where
  /-- `RegRead(idx)` -/
  | regRead (idx : RegIdx)
  /-- `RegWrite(idx, v)` -/
  | regWrite (idx : RegIdx) (v : Word)
  /-- `BufRead(a)` -/
  | bufRead (a : Word)
  /-- `BufWrite(a, b)` -/
  | bufWrite (a : Word) (b : Byte)
  /-- attach or replace the code source (R239) -/
  | attach (src : CodeSource)
  /-- assert reset (R281) -/
  | reset
deriving DecidableEq, Repr

/-- One entry of the interleaving of engine steps and host transactions (R292). -/
inductive Turn where
  /-- the engine takes one step -/
  | engine
  /-- the host performs one transaction -/
  | host (m : HostMove)
  /-- the host waits: the engine steps until STATE is DONE or FAULT (R92, `WAIT`) -/
  | wait
deriving DecidableEq, Repr

/-- The answer to a host read. -/
inductive Reply where
  | reg (idx : RegIdx) (v : Word)
  | buf (a : Word) (b : Byte)
deriving DecidableEq, Repr

/-- A memory: (address, content) pairs with strictly rising addresses. An address that is not
listed holds nothing definite: what it reads as is the reader's free value. -/
abbrev Memory (α : Type) := List (Nat × α)

/-- One `assign(k, s)` event (R19): code k was bound to sequence s. -/
abbrev Binding := Code × Seq

/-- The state of the machine. -/
structure State where
  /-- N_MAX, the capacity of INBUF (R9): a parameter of the instance; no step changes it -/
  nMax      : Word
  /-- the FSM phase (R39); STATUS.STATE, STATUS.IRQ and irq are functions of it -/
  phase     : Phase
  /-- STATUS.CAUSE (R25, R251) -/
  cause     : Cause
  /-- STATUS.SELFREF (R29) -/
  selfref   : Bool
  /-- IN_LEN (R30) -/
  inLen     : Word
  /-- NEXT_CODE (R31); STATUS.EXHAUSTED is a function of it -/
  nextCode  : Counter
  /-- CODE_COUNT (R32) -/
  codeCount : Word
  /-- BYTE_COUNT (R34) -/
  byteCount : Word
  /-- FAULT_INFO.CODE (R35) -/
  faultInfo : Code
  /-- datapath register N (R20): the input length of the run -/
  n         : Word
  /-- datapath register I: the compress offset -/
  i         : Word
  /-- datapath register J: the scan offset of the trie walk -/
  j         : Word
  /-- datapath register P: trie node pointer (compress), chain pointer (expand) -/
  p         : Code
  /-- datapath register BEST_CODE -/
  bestCode  : Code
  /-- datapath register BEST_LEN -/
  bestLen   : Len
  /-- datapath register MISS_NODE -/
  missNode  : Code
  /-- datapath register MISS_DIR -/
  missDir   : Dir
  /-- datapath register CUR: the code whose sequence is `current` -/
  cur       : Code
  /-- datapath register K: the last code read -/
  k         : Code
  /-- datapath register NFIRST: the first byte of `next` -/
  nfirst    : Byte
  /-- datapath register SP: the LIFO depth -/
  sp        : Len
  /-- INBUF[0..N_MAX) (R61) -/
  inbuf     : Memory Byte
  /-- node[0..4095], the trie arena (R111) -/
  node      : Memory Node
  /-- tab[0..4095], the chained code table (R136) -/
  tab       : Memory TabEntry
  /-- LIFO[0..3839] (R139) -/
  lifo      : Memory Byte
  /-- the attached code source (R223) -/
  source    : CodeSource
  /-- the read position of the code source (R223); before an EXPAND see notes/assumptions/29.md -/
  srcPos    : Nat
  /-- the events the sink has received, oldest first (R224); deliveries are never taken back -/
  sink      : List Event
  /-- observation: the codes taken from the source, oldest first (R18) -/
  reads     : List Code
  /-- observation: the assign events of the current run, oldest first (R19). With the seeded
  bindings they are the dictionary D (compress) or the table T (expand) of R42. An accepted CMD write
  and reset drop them (notes/assumptions/17.md) -/
  assigns   : List Binding
  /-- the answers to the host's reads, oldest first (R221, R222) -/
  replies   : List Reply
  /-- the interleaving still to come (R292); when it is empty the engine steps -/
  turns     : List Turn
  /-- the number of unspecified register reads answered so far: names the next free value -/
  draws     : Nat
  /-- the number of resets so far: names the unspecified memory contents of this power-up -/
  epoch     : Nat
deriving DecidableEq, Repr

/-- The reasons the MODEL stops. No fault of the hardware is here: those are next states (R252).
Each constructor is a case no rule of the spec reaches. -/
inductive Fault where
  /-- A code word was executed in a context its row does not belong to (R87). Raised by the
  meanings of the CW rows; `step` never calls one so in a state a run reaches. Safe. -/
  | outOfContext
  /-- The engine read INBUF at an offset ≥ N_MAX. Raised by C_MATCH, C_WALK and C_GROW; R69 says
  that no engine read is out of range. Safe. -/
  | inbufOutOfRange
  /-- The engine used a LIFO address past 3839. Raised by X_PUSH and X_POP; R140 says that no
  overflow case exists. Safe. -/
  | lifoOutOfRange
deriving DecidableEq, Repr

/-- The reasons the model has no meaning for a move. -/
inductive Refusal where
  /-- An instruction that has no meaning yet: raised by `exec`'s arm. Safe. -/
  | notModelled (mnemonic : String)
  /-- The host attached a code source while STATE was EXPANDING, a move the host does not have
  (R239). Raised by the host transaction `attach`. Safe. -/
  | attachWhileExpanding
deriving DecidableEq, Repr

/-- The empty code source: what is attached until the host attaches one (R223). -/
def CodeSource.empty : CodeSource := { codes := [], tail := .ends }

/-- The machine right after reset at power-on (R280), for an INBUF of `nMax` bytes. The datapath
registers are "unspecified after reset and at the start of a run" (R21); the zeros are the model's (DESIGN CHOICE,
notes/assumptions/2.md). -/
def State.resetWith (nMax : Word) : State where
  nMax      := nMax
  phase     := .idle
  cause     := .none
  selfref   := false
  inLen     := 0
  nextCode  := 0
  codeCount := 0
  byteCount := 0
  faultInfo := 0
  n         := 0
  i         := 0
  j         := 0
  p         := 0
  bestCode  := 0
  bestLen   := 0
  missNode  := 0
  missDir   := .lo
  cur       := 0
  k         := 0
  nfirst    := 0
  sp        := 0
  inbuf     := []
  node      := []
  tab       := []
  lifo      := []
  source    := CodeSource.empty
  srcPos    := 0
  sink      := []
  reads     := []
  assigns   := []
  replies   := []
  turns     := []
  draws     := 0
  epoch     := 0

/-- The machine right after reset. -/
def State.reset : State := State.resetWith Config.nMaxAtReset

end Sys2Proof.Machine
end

