-- ==== Sys2Proof/Machine/Flags.lean ====
section
/-! DEFINITION. The status flags and fields: every field of STATUS (10_state R25 to R29), the irq
level (60_exceptions R263), the cause codes (R251), and the STATUS word. The engine has no
arithmetic condition codes (R40). -/

namespace Sys2Proof.Machine

/-- The values of STATUS.STATE (R25). -/
inductive Mode where
  | idle
  | compressing
  | expanding
  | done
  | fault
deriving DecidableEq, Repr

/-- STATUS.STATE is a function of the phase (R26, R39). -/
def Phase.mode : Phase → Mode
  | .idle => .idle
  | .cSeed => .compressing
  | .cMatch => .compressing
  | .cWalk => .compressing
  | .cEmit => .compressing
  | .cGrow => .compressing
  | .cAdv => .compressing
  | .cEos => .compressing
  | .cClose => .compressing
  | .xSeed => .expanding
  | .xFirst => .expanding
  | .xEmit => .expanding
  | .xPush => .expanding
  | .xPop => .expanding
  | .xRead => .expanding
  | .xResolve => .expanding
  | .xGrow => .expanding
  | .xAdv => .expanding
  | .xClose => .expanding
  | .done => .done
  | .fault => .fault

/-- The three bits of STATUS.STATE (R25). -/
def Mode.bits : Mode → BitVec 3
  | .idle => 0
  | .compressing => 1
  | .expanding => 2
  | .done => 3
  | .fault => 4

/-- The four bits of STATUS.CAUSE (R251). -/
def Cause.bits : Cause → BitVec 4
  | .none => 0
  | .usage => 1
  | .malformed => 2
  | .truncated => 3
  | .cmdBusy => 4
  | .length => 5

/-- The two bits of MISS_DIR: LO = 0, EQ = 1, HI = 2 (R20). -/
def Dir.bits : Dir → BitVec 2
  | .lo => 0
  | .eq => 1
  | .hi => 2

/-- A run is in progress: STATE is COMPRESSING or EXPANDING (R230, R232; R252's "phase ∉ {IDLE,
DONE, FAULT}"). -/
def State.busy (s : State) : Bool :=
  match s.phase.mode with
  | .compressing => true
  | .expanding => true
  | .idle => false
  | .done => false
  | .fault => false

/-- The run has ended: STATE is DONE or FAULT (R237). -/
def State.ended (s : State) : Bool :=
  match s.phase.mode with
  | .done => true
  | .fault => true
  | .idle => false
  | .compressing => false
  | .expanding => false

/-- The irq output: 1 exactly when STATE is DONE or FAULT (R263). -/
def State.irq (s : State) : Bool := s.ended

/-- STATUS.EXHAUSTED equals (NEXT_CODE = 4096); it has no storage of its own (R27). -/
def State.exhausted (s : State) : Bool := s.nextCode == Config.limit

/-- The STATUS word (R25): STATE [2:0], EXHAUSTED [3], IRQ [4], SELFREF [5], zeros [7:6],
CAUSE [11:8], zeros [31:12]. -/
def State.statusWord (s : State) : Word :=
  (0 : BitVec 20) ++ s.cause.bits ++ (0 : BitVec 2) ++ BitVec.ofBool s.selfref ++
    BitVec.ofBool s.irq ++ BitVec.ofBool s.exhausted ++ s.phase.mode.bits

/-- What a read of STATUS answers while a run is in progress: STATE is definite, bits [31:3] are
the free value (R33). -/
def State.statusMidRun (s : State) (free : Word) : Word :=
  (free.extractLsb' 3 29 : BitVec 29) ++ s.phase.mode.bits

end Sys2Proof.Machine
end

