-- ==== Sys2Proof/Machine/Operands.lean ====
section
/-! DEFINITION. Operand forms of the code words (30_encoding R81 to R83): the classes LIT, EOS and
DICT, the byte and sequence of a LIT code, and the contexts in which the code-word rows apply
(R87). No operand is scaled, shifted or sign-extended. -/

namespace Sys2Proof.Machine

/-- The classes of a code word, from its value alone (R82). -/
inductive CodeClass where
  | lit
  | eos
  | dict
deriving DecidableEq, Repr

/-- The class of a code word (R82): LIT 0x000..0x0FF, EOS 0x100, DICT 0x101..0xFFF. -/
def classOf (k : Code) : CodeClass :=
  if k.toNat ≤ 0xFF then .lit else if k.toNat = 0x100 then .eos else .dict

/-- The byte of a LIT code is `k[7:0]` (R83). -/
def litByte (k : Code) : Byte := k.setWidth 8

/-- The code of a single byte: its own value (R101). -/
def byteCode (b : Byte) : Code := b.setWidth 12

/-- The code that NEXT_CODE will bind, as a 12-bit code; used only while NEXT_CODE < 4096. -/
def codeOfCounter (nc : Counter) : Code := nc.setWidth 12

/-- The context of the rows CW_FIRST_*: phase X_FIRST, with the code in K (R192). -/
def State.inFirst (s : State) (k : Code) : Bool := s.phase == .xFirst && s.k == k

/-- The context of the rows CW_NEXT_HIT, CW_NEXT_SELFREF and CW_NEXT_BAD: phase X_RESOLVE, with a
code other than EOS in K (R87). -/
def State.inResolve (s : State) (k : Code) : Bool :=
  s.phase == .xResolve && s.k == k && k != Config.eos

/-- The context of CW_NEXT_EOS: EOS in K, in phase X_READ, where R197 tests for it; R86 lists the
same test for X_RESOLVE (notes/assumptions/27.md). -/
def State.inNextEos (s : State) : Bool :=
  (s.phase == .xRead || s.phase == .xResolve) && s.k == Config.eos

/-- The decoding context the state itself gives to a CMD write (R230, R232). -/
def State.cmdCtx (s : State) : Ctx := if s.busy then .cmdBusy else .cmdFree

end Sys2Proof.Machine
end

