-- ==== Sys2Proof/Machine/Abstract.lean ====
section
/-! DEFINITION. The abstract level, which is normative (00_scope R17): the dictionary D as a map from
sequences to codes (40_prefix_dictionary R100 to R108), the table T as a map from codes to sequences
(41_code_table R130 to R133), the whole-run functions COMPRESS (42_compress R168) and EXPAND
(43_expand R205), and the two sides of the mirror invariant (43_expand R210). Both maps are given by
the learned bindings alone; the seeded bindings `[b] ↦ b` and `b ↦ [b]` (D0 and T0) are in every one
of them. -/

namespace Sys2Proof.Machine

/-- D(s): the code of a sequence, `none` if s ∉ dom D (R100, R101, R107). -/
def dictLookup (learned : List Binding) : Seq → Option Code
  | [] => none
  | [b] => some (byteCode b)
  | s => (learned.find? fun x => x.2 == s).map fun x => x.1

/-- T(k): the sequence of a code, `none` if k ∉ dom T (R130, R131, R132). -/
def tableLookup (learned : List Binding) (k : Code) : Option Seq :=
  match classOf k with
  | .lit => some [litByte k]
  | .eos => none
  | .dict => (learned.find? fun x => x.1 == k).map fun x => x.2

/-- The length of the longest prefix of `x` of length at most `l` that is a key of D; 0 if there is
none. -/
def longestUpTo (learned : List Binding) (x : Seq) : Nat → Nat
  | 0 => 0
  | l + 1 => if (dictLookup learned (x.take (l + 1))).isSome then l + 1 else longestUpTo learned x l

/-- |LONGEST_PREFIX| of the rest `x` of the input (R105): the greatest l ≥ 1 with
`x[0..l) ∈ dom D`. -/
def longestLen (learned : List Binding) (x : Seq) : Nat := longestUpTo learned x x.length

/-- LONGEST_PREFIX(X, N, i), for `x` = X[i..N) (R105). -/
def longestPrefix (learned : List Binding) (x : Seq) : Seq := x.take (longestLen learned x)

/-- INSERT and APPEND: bind `s` to NEXT_CODE, if the code space allows it (R108, R133). -/
def bindNext (learned : List Binding) (next : Nat) (s : Seq) : List Binding × Nat :=
  if next < 4096 then (learned ++ [(BitVec.ofNat 12 next, s)], next + 1) else (learned, next)

/-- What a whole compress run comes to (R168). -/
structure CompressResult where
  codes   : List Code
  learned : List Binding
  next    : Nat
deriving DecidableEq, Repr

/-- The loop of COMPRESS (R168) on the rest of the input; `fuel` bounds the number of segments,
each of which takes at least one byte (R106). -/
def compressLoop : Nat → List Binding → Nat → Seq → CompressResult
  | 0, learned, next, _ => { codes := [], learned := learned, next := next }
  | _ + 1, learned, next, [] => { codes := [], learned := learned, next := next }
  | fuel + 1, learned, next, b :: rest =>
    let x := b :: rest
    let l := longestLen learned x
    let d := if l < x.length then bindNext learned next (x.take (l + 1)) else (learned, next)
    let r := compressLoop fuel d.1 d.2 (x.drop l)
    { r with codes := (dictLookup learned (x.take l)).getD 0 :: r.codes }

/-- COMPRESS(X) (R168): the codes of the segments, then EOS. -/
def compressAll (x : Seq) : CompressResult :=
  let r := compressLoop x.length [] 257 x
  { r with codes := r.codes ++ [Config.eos] }

/-- What a whole expand run comes to (R205): the bytes, the cause (`none` for Ok) and offending
code, NEXT_CODE, the number of codes read, whether a self-reference was resolved, and the learned
bindings. -/
structure ExpandResult where
  out     : Seq
  cause   : Cause
  info    : Code
  next    : Nat
  count   : Nat
  selfref : Bool
  learned : List Binding
deriving DecidableEq, Repr

/-- The loop of EXPAND (R205): `cur` is the current sequence, emitted first. -/
def expandLoop : List Code → List Binding → Nat → Seq → ExpandResult
  | [], learned, next, cur =>
    { out := cur, cause := .truncated, info := 0, next := next, count := 0, selfref := false
      learned := learned }
  | k :: ks, learned, next, cur =>
    if k = Config.eos then
      { out := cur, cause := .none, info := 0, next := next, count := 1, selfref := false
        learned := learned }
    else if next < k.toNat then
      { out := cur, cause := .malformed, info := k, next := next, count := 1, selfref := false
        learned := learned }
    else
      let nxt := if k.toNat < next then (tableLookup learned k).getD [] else cur ++ cur.take 1
      let d := bindNext learned next (cur ++ nxt.take 1)
      let r := expandLoop ks d.1 d.2 nxt
      { r with
        out := cur ++ r.out
        count := r.count + 1
        selfref := r.selfref || decide (k.toNat = next) }

/-- EXPAND(cs) (R205). -/
def expandAll : List Code → ExpandResult
  | [] =>
    { out := [], cause := .truncated, info := 0, next := 257, count := 0, selfref := false
      learned := [] }
  | k :: ks =>
    if k = Config.eos then
      { out := [], cause := .none, info := 0, next := 257, count := 1, selfref := false
        learned := [] }
    else if 255 < k.toNat then
      { out := [], cause := .malformed, info := k, next := 257, count := 1, selfref := false
        learned := [] }
    else
      let r := expandLoop ks [] 257 [litByte k]
      { r with count := r.count + 1 }

/-! ## The two sides of the mirror invariant -/

/-- The encoder right after it emits its code n, counted from 1, before the growth of that segment
(R210): n − 1 segments are whole. -/
def encoderAt (x : Seq) (n : Nat) : CompressResult := compressLoop (n - 1) [] 257 x

/-- The decoder right after it processes code n of `cs`, counted from 1 (R210): only the first n codes
have been read. Its cause is TRUNCATED exactly where these neither end the run nor are malformed. -/
def decoderAt (cs : List Code) (n : Nat) : ExpandResult := expandAll (cs.take n)

/-- The codes bound at point n (R210): 0..255 and 257..256 + min(n − 1, 3839). -/
def boundAt (n : Nat) (k : Code) : Prop :=
  k.toNat < 256 ∨ 257 ≤ k.toNat ∧ k.toNat ≤ 256 + min (n - 1) 3839

end Sys2Proof.Machine
end

