-- ==== Sys2Proof/Machine/Ops.lean ====
section
/-! DEFINITION. The named operations over the memories, the registers and the ports that every
meaning and phase is written with: memory read and write, emit, taking a code, the common clearing
of an accepted CMD write (44_host_interface R230), fault entry (60_exceptions R252) and the reset
transaction (70_reset R280, R281). There is no return from a fault (R262): what leaves phase FAULT
is an accepted CMD write or reset. -/

namespace Sys2Proof.Machine

/-! ## Memories -/

/-- The content listed at address `a`, if any. -/
def Memory.read {α : Type} : Memory α → Nat → Option α
  | [], _ => none
  | (b, v) :: m, a => if a = b then some v else Memory.read m a

/-- Store `v` at address `a`; the addresses stay strictly rising. -/
def Memory.write {α : Type} : Memory α → Nat → α → Memory α
  | [], a, v => [(a, v)]
  | (b, w) :: m, a, v =>
    if a < b then (a, v) :: (b, w) :: m
    else if a = b then (a, v) :: m
    else (b, w) :: Memory.write m a v

/-- The canonical form: addresses strictly rising, all below `size`. An unlisted address holds no
definite content, so no entry can equal what one reads as. -/
def Memory.wf {α : Type} (size : Nat) (m : Memory α) : Bool :=
  decide (m.Pairwise fun x y => x.1 < y.1) && m.all fun x => decide (x.1 < size)

/-- Store `f 0, …, f (k − 1)` at the addresses 0..k−1; the other addresses keep their content. -/
def Memory.seed {α : Type} (m : Memory α) (k : Nat) (f : Nat → α) : Memory α :=
  ((List.range k).map fun a => (a, f a)) ++ m.filter fun x => decide (k ≤ x.1)

/-- The byte INBUF holds at offset `a`: the one stored there, or an unspecified one (R222, R280). -/
def State.inbufByte (s : State) (a : Word) : Byte :=
  (Memory.read s.inbuf a.toNat).getD (Config.freeInbuf s.epoch a.toNat)

/-- What `BufRead(a)` answers: the byte stored at `a`, or 0x00 at an offset ≥ N_MAX (R63, R222). -/
def State.bufRead (s : State) (a : Word) : Byte :=
  if a.toNat < s.nMax.toNat then s.inbufByte a else 0

/-- The engine's read `MemRead(INBUF, a, 1)`; no offset ≥ N_MAX exists for it (R69). -/
def State.engineByte (s : State) (a : Word) : Option Byte :=
  if a.toNat < s.nMax.toNat then some (s.inbufByte a) else none

/-- The bytes INBUF[a .. a + len) (R12). -/
def State.inbufSlice (s : State) (a : Word) (len : Nat) : Seq :=
  (List.range len).map fun d => s.inbufByte (a + BitVec.ofNat 32 d)

/-- node[p] (R111). -/
def State.nodeAt (s : State) (p : Code) : Node :=
  (Memory.read s.node p.toNat).getD (Config.freeNode s.epoch p.toNat)

/-- tab[k] (R136). -/
def State.tabAt (s : State) (k : Code) : TabEntry :=
  (Memory.read s.tab k.toNat).getD (Config.freeTab s.epoch k.toNat)

/-- LIFO[a] (R139). -/
def State.lifoAt (s : State) (a : Nat) : Byte :=
  (Memory.read s.lifo a).getD (Config.freeLifo s.epoch a)

/-! ## Ports -/

/-- `emit(E)`: deliver one event to the sink, which accepts it at once (R224, R236). -/
def State.emit (s : State) (e : Event) : State := { s with sink := s.sink ++ [e] }

/-- The code of a source at a position, `none` past the end of a finite source (R223). -/
def CodeSource.at? (src : CodeSource) (pos : Nat) : Option Code :=
  if pos < src.codes.length then src.codes[pos]?
  else
    match src.tail with
    | .ends => none
    | .repeats c cs => (c :: cs)[(pos - src.codes.length) % (cs.length + 1)]?
    | .unknown name => some (Config.freeCode name (pos - src.codes.length))

/-- `src.eod()`: no complete code remains at the read position; reads nothing (R226). -/
def State.srcEod (s : State) : Bool := (s.source.at? s.srcPos).isNone

/-- The code at the read position, if any: what `src.next()` would return (R226). -/
def State.srcCode (s : State) : Option Code := s.source.at? s.srcPos

/-- `reg.K <- src.next()` and the count of the code taken (R192, R197): the read position advances
by one and CODE_COUNT goes up by one modulo 2^32. -/
def State.takeCode (s : State) (k : Code) : State :=
  { s with
    k := k
    srcPos := s.srcPos + 1
    reads := s.reads ++ [k]
    codeCount := s.codeCount + 1 }

/-! ## Faults -/

/-- Fault entry, `raise Fault(cause, info)` (R252): Abort first if a run is in progress, then the
cause and the offending code are recorded and the phase becomes FAULT. Everything else keeps its
value. -/
def State.takeFault (s : State) (cause : Cause) (info : Code) : State :=
  let t := if s.busy then s.emit .abort else s
  { t with cause := cause, faultInfo := info, phase := .fault }

/-- The common clearing of an accepted CMD write (R230). The learned bindings of an earlier run are
gone with it ("no cross-call persistence"). The datapath registers are unspecified at the start of a
run too, until a phase writes them (10_state R21); that they carry over what the run before left is the
model's (DESIGN CHOICE, notes/assumptions/2.md). -/
def State.acceptCmd (s : State) : State :=
  { s with
    codeCount := 0
    byteCount := 0
    faultInfo := 0
    cause := .none
    selfref := false
    nextCode := 0
    assigns := [] }

/-! ## Reset -/

/-- The reset transaction (R280, R281): every register and the phase take their reset values and the
memories' contents become unspecified, whatever the phase. Reset delivers no event and does not
touch the code source; the instance keeps its N_MAX, and the logs of events, codes taken and replies
and the turns still to come are not the engine's (notes/assumptions/21.md). The assign events of the
run are dropped: R280 leaves D and T with nothing bound, and R19 does not say whether the events of a
run cut short stay observed (DESIGN CHOICE, notes/assumptions/17.md). -/
def State.assertReset (s : State) : State :=
  { State.resetWith s.nMax with
    source := s.source
    srcPos := s.srcPos
    sink := s.sink
    reads := s.reads
    replies := s.replies
    turns := s.turns
    draws := s.draws
    epoch := s.epoch + 1 }

end Sys2Proof.Machine
end

