-- ==== Sys2Proof/Machine/Trie.lean ====
section
/-! DEFINITION. The Prefix Dictionary's trie (40_prefix_dictionary R111 to R122): TRIE_SEED, the two
parts of TRIE_WALK, and TRIE_INSERT; and the map a trie represents (R119). -/

namespace Sys2Proof.Machine

/-- The dictionary D of the run (R42, R100): nothing is bound until the run has seeded it; then the
single bytes and the learned sequences are. -/
def State.dict (s : State) (x : Seq) : Option Code :=
  if s.nextCode = 0 then none else dictLookup s.assigns x

/-- The root node of byte `b` right after seeding (R113). -/
def rootNode (b : Nat) : Node where
  c    := BitVec.ofNat 8 b
  lo   := Config.nil
  eq   := Config.nil
  hi   := Config.nil
  term := true
  code := BitVec.ofNat 12 b

/-- TRIE_SEED (R113): the 256 root nodes. "Nodes 257..4095 are not cleared." -/
def State.trieSeed (s : State) : State := { s with node := Memory.seed s.node 256 rootNode }

/-- TRIE_WALK, the start step, with b = INBUF[I] (R115). -/
def State.walkStart (s : State) (b : Byte) : State :=
  let m := s.nodeAt (byteCode b)
  { s with
    bestCode := m.code
    bestLen := 1
    missNode := byteCode b
    missDir := .eq
    p := m.eq
    j := s.i + 1 }

/-- TRIE_WALK, one visit of the node P with b = INBUF[J] (R115). -/
def State.walkVisit (s : State) (b : Byte) : State :=
  let m := s.nodeAt s.p
  if b < m.c then { s with missNode := s.p, missDir := .lo, p := m.lo }
  else if m.c < b then { s with missNode := s.p, missDir := .hi, p := m.hi }
  else
    { s with
      bestCode := m.code
      bestLen := BitVec.ofNat 12 (s.j.toNat - s.i.toNat + 1)
      missNode := s.p
      missDir := .eq
      p := m.eq
      j := s.j + 1 }

/-- A node with the link in direction `d` set to `k`. -/
def setLink (m : Node) (d : Dir) (k : Code) : Node :=
  match d with
  | .lo => { m with lo := k }
  | .eq => { m with eq := k }
  | .hi => { m with hi := k }

/-- A node's link in direction `d`. -/
def linkOf (m : Node) (d : Dir) : Code :=
  match d with
  | .lo => m.lo
  | .eq => m.eq
  | .hi => m.hi

/-- The node an insertion allocates for code `k` and byte `b` (R117). -/
def newNode (b : Byte) (k : Code) : Node where
  c    := b
  lo   := Config.nil
  eq   := Config.nil
  hi   := Config.nil
  term := true
  code := k

/-- INSERT (R108) in its trie form TRIE_INSERT (R117): node NEXT_CODE is allocated for the byte `b`
and linked from MISS_NODE, the binding is recorded, and NEXT_CODE goes up by one. Applied only while
NEXT_CODE < 4096. -/
def State.trieInsert (s : State) (b : Byte) : State :=
  let k := codeOfCounter s.nextCode
  let node := Memory.write s.node k.toNat (newNode b k)
  let t := { s with node := node }
  let node := Memory.write node s.missNode.toNat (setLink (t.nodeAt s.missNode) s.missDir k)
  { s with
    node := node
    assigns := s.assigns ++ [(k, s.inbufSlice s.i (s.bestLen.toNat + 1))]
    nextCode := s.nextCode + 1 }

/-- The child of a child tree that holds the byte `b`: the search of R114 from the link `p`, by lo
and hi links only; `fuel` bounds the number of visits. -/
def State.childOf (s : State) (b : Byte) : Nat → Code → Option Code
  | 0, _ => none
  | fuel + 1, p =>
    if p = Config.nil then none
    else if b < (s.nodeAt p).c then s.childOf b fuel (s.nodeAt p).lo
    else if (s.nodeAt p).c < b then s.childOf b fuel (s.nodeAt p).hi
    else some p

/-- The node reached from node `p` by the bytes `x`, one level of children per byte (R114). -/
def State.descend (s : State) (p : Code) : Seq → Option Code
  | [] => some p
  | b :: x =>
    match s.childOf b Config.arenaSize (s.nodeAt p).eq with
    | none => none
    | some q => s.descend q x

/-- The map D_trie the arena represents (R119): the code of a sequence, through the root node of its
first byte. -/
def State.trieLookup (s : State) : Seq → Option Code
  | [] => none
  | b :: x => (s.descend (byteCode b) x).map fun p => (s.nodeAt p).code

end Sys2Proof.Machine
end

