-- ==== Sys2Proof/Machine/Compress.lean ====
section
/-! DEFINITION. The phases of compress (42_compress R161 to R167), with the trie walk of
40_prefix_dictionary R115 for the match. One definition per phase; each is one engine step. -/

namespace Sys2Proof.Machine

/-- C_SEED (R161): I, the dictionary, NEXT_CODE and the counters are initialised. N was sampled from
IN_LEN when the command was accepted (R30; notes/assumptions/11.md). -/
def phaseCSeed (s : State) : Host.Outcome State Fault Refusal :=
  .next { s.trieSeed with
    i := 0
    nextCode := Config.firstFree
    codeCount := 0
    byteCount := 0
    phase := .cMatch }

/-- C_MATCH (R162, R115): the end of the input, or the start of the walk. -/
def phaseCMatch (s : State) : Host.Outcome State Fault Refusal :=
  if s.i = s.n then .next { s with phase := .cEos }
  else
    match s.engineByte s.i with
    | none => .fault .inbufOutOfRange
    | some b => .next { s.walkStart b with phase := .cWalk }

/-- C_WALK (R115): the walk ends at the end of the input or at a NIL link, or visits one node. -/
def phaseCWalk (s : State) : Host.Outcome State Fault Refusal :=
  if s.j = s.n ∨ s.p = Config.nil then .next { s with phase := .cEmit }
  else
    match s.engineByte s.j with
    | none => .fault .inbufOutOfRange
    | some b => .next { s.walkVisit b with phase := .cWalk }

/-- C_EMIT (R163). -/
def phaseCEmit (s : State) : Host.Outcome State Fault Refusal :=
  .next { s.emit (.code s.bestCode) with codeCount := s.codeCount + 1, phase := .cGrow }

/-- The offset of the byte after the match, I + BEST_LEN. -/
def State.afterMatch (s : State) : Word := s.i + s.bestLen.setWidth 32

/-- C_GROW (R164): insert the match plus the byte after it, unless the match reaches the end of the
input (R169) or the code space is exhausted (R171). -/
def phaseCGrow (s : State) : Host.Outcome State Fault Refusal :=
  if s.i.toNat + s.bestLen.toNat < s.n.toNat ∧ s.nextCode < Config.limit then
    match s.engineByte s.afterMatch with
    | none => .fault .inbufOutOfRange
    | some b => .next { s.trieInsert b with phase := .cAdv }
  else .next { s with phase := .cAdv }

/-- C_ADV (R165): BYTE_COUNT takes the new value of I. -/
def phaseCAdv (s : State) : Host.Outcome State Fault Refusal :=
  .next { s with i := s.afterMatch, byteCount := s.afterMatch, phase := .cMatch }

/-- C_EOS (R166). -/
def phaseCEos (s : State) : Host.Outcome State Fault Refusal :=
  .next { s.emit (.code Config.eos) with codeCount := s.codeCount + 1, phase := .cClose }

/-- C_CLOSE (R167): Close is delivered, then STATE is DONE. -/
def phaseCClose (s : State) : Host.Outcome State Fault Refusal :=
  .next { s.emit .close with phase := .done }

end Sys2Proof.Machine
end

