-- ==== Sys2Proof/Machine/Table.lean ====
section
/-! DEFINITION. The chained Code Table (41_code_table R136 to R144): TAB_SEED, TAB_APPEND, FIRST, the
three phases of RECONSTRUCT, and the sequence an entry stands for (R141). -/

namespace Sys2Proof.Machine

/-- The table T of the run (R42, R130): nothing is bound until the run has seeded it; then the
codes 0..255 and the learned codes are. -/
def State.table (s : State) (k : Code) : Option Seq :=
  if s.nextCode = 0 then none else tableLookup s.assigns k

/-- The entry of byte `b` right after seeding (R137). -/
def seedEntry (b : Nat) : TabEntry where
  pre    := Config.nil
  suffix := BitVec.ofNat 8 b
  first  := BitVec.ofNat 8 b
  len    := 1

/-- TAB_SEED (R137): the 256 one-byte entries. "Entries 257..4095 are not cleared." -/
def State.tabSeed (s : State) : State := { s with tab := Memory.seed s.tab 256 seedEntry }

/-- FIRST(k) = tab[k].first (R144). -/
def State.firstOf (s : State) (k : Code) : Byte := (s.tabAt k).first

/-- The sequence of an entry, by its chain (R141): the chain of `pre` links back to NIL, last byte
last. `fuel` bounds the chain, which has at most 3840 links (R140, R142). -/
def State.chainSeq (s : State) : Nat → Code → Seq
  | 0, _ => []
  | fuel + 1, k =>
    let e := s.tabAt k
    if e.pre = Config.nil then [e.suffix] else s.chainSeq fuel e.pre ++ [e.suffix]

/-- seq(k) of R141. -/
def State.seqOf (s : State) (k : Code) : Seq := s.chainSeq Config.arenaSize k

/-- APPEND (R133) in its chained form TAB_APPEND (R138): entry NEXT_CODE extends CUR by NFIRST, the
binding is recorded, and NEXT_CODE goes up by one. Applied only while NEXT_CODE < 4096. -/
def State.tabAppend (s : State) : State :=
  let k := codeOfCounter s.nextCode
  let e := s.tabAt s.cur
  { s with
    tab := Memory.write s.tab k.toNat
      { pre := s.cur, suffix := s.nfirst, first := e.first, len := e.len + 1 }
    assigns := s.assigns ++ [(k, s.seqOf s.cur ++ [s.nfirst])]
    nextCode := s.nextCode + 1 }

end Sys2Proof.Machine
end

