-- ==== Sys2Proof/Machine/CodeWord.lean ====
section
/-! DEFINITION. The seven code-word rows of the opcode map (43_expand R193 to R195, R198 to R201).
Each runs after its code has been taken from the source into K and counted (R192, R197). A row
applies only in its context (30_encoding R87); elsewhere it has no effect in the spec, and the
meaning stops with `outOfContext` (notes/assumptions/14.md). -/

namespace Sys2Proof.Machine

/-- The effect `t` of a row, where the row's context holds. -/
def inContext (ok : Bool) (t : State) : Host.Outcome State Fault Refusal :=
  if ok then .next t else .fault .outOfContext

/-- CW_FIRST_EOS (R193): the original input was empty. -/
def execCwFirstEos (s : State) : Host.Outcome State Fault Refusal :=
  inContext (s.inFirst Config.eos) { s with phase := .xClose }

/-- CW_FIRST_LIT (R194): the code becomes `current`. Nothing is appended for the first code. -/
def execCwFirstLit (b : Byte) (s : State) : Host.Outcome State Fault Refusal :=
  inContext (s.inFirst (byteCode b)) { s with cur := byteCode b, phase := .xEmit }

/-- CW_FIRST_BAD (R195): Fault(MALFORMED, K). -/
def execCwFirstBad (k : Code) (s : State) : Host.Outcome State Fault Refusal :=
  inContext (s.inFirst k && decide (257 ≤ k.toNat)) (s.takeFault .malformed k)

/-- CW_NEXT_EOS (R198): the run ends; `current` has been emitted. -/
def execCwNextEos (s : State) : Host.Outcome State Fault Refusal :=
  inContext s.inNextEos { s with phase := .xClose }

/-- CW_NEXT_HIT (R199): next = T(K), so next[0] = FIRST(K). -/
def execCwNextHit (k : Code) (s : State) : Host.Outcome State Fault Refusal :=
  inContext (s.inResolve k && decide (k.toNat < s.nextCode.toNat))
    { s with nfirst := s.firstOf k, phase := .xGrow }

/-- CW_NEXT_SELFREF (R200): next = current ++ [current[0]], so next[0] = FIRST(CUR). -/
def execCwNextSelfref (k : Code) (s : State) : Host.Outcome State Fault Refusal :=
  inContext (s.inResolve k && decide (k.toNat = s.nextCode.toNat))
    { s with nfirst := s.firstOf s.cur, selfref := true, phase := .xGrow }

/-- CW_NEXT_BAD (R201): Fault(MALFORMED, K). Nothing is appended for K. -/
def execCwNextBad (k : Code) (s : State) : Host.Outcome State Fault Refusal :=
  inContext (s.inResolve k && decide (s.nextCode.toNat < k.toNat)) (s.takeFault .malformed k)

end Sys2Proof.Machine
end

