-- ==== Sys2Proof/Machine/Command.lean ====
section
/-! DEFINITION. The four command rows of the opcode map (44_host_interface R230 to R233, 42_compress
R160, 43_expand R190): a host write to CMD. A write while a run is in progress is CMD_BUSY whatever
the word (R232, R258); otherwise it is accepted, with the common clearing of R230. Executed off its
row's context, a command does what R230, R232 and R258 say of the write (notes/assumptions/15.md). -/

namespace Sys2Proof.Machine

/-- CMD_COMPRESS after the common clearing (R160, R233): LENGTH if IN_LEN > N_MAX, else the run
starts, with IN_LEN sampled into N (R30, R61; notes/assumptions/11.md). The other datapath registers
keep what they held (R21 leaves that open; notes/assumptions/2.md). -/
def State.startCompress (s : State) : State :=
  if s.nMax < s.inLen then s.takeFault .length 0
  else { s with n := s.inLen, phase := .cSeed }

/-- CMD_EXPAND after the common clearing (R190): the run starts; the source is read from its first
code (R223). The datapath registers keep what they held (R21 leaves that open;
notes/assumptions/2.md). -/
def State.startExpand (s : State) : State := { s with srcPos := 0, phase := .xSeed }

/-- A CMD write that is not accepted: the run in progress is aborted, Fault(CMD_BUSY, 0) (R232). -/
def State.abortRun (s : State) : State := s.takeFault .cmdBusy 0

/-- CMD_COMPRESS (R160). -/
def execCmdCompress (s : State) : Host.Outcome State Fault Refusal :=
  .next (if s.busy then s.abortRun else s.acceptCmd.startCompress)

/-- CMD_EXPAND (R190). -/
def execCmdExpand (s : State) : Host.Outcome State Fault Refusal :=
  .next (if s.busy then s.abortRun else s.acceptCmd.startExpand)

/-- CMD_INVALID (R231): accepted, then Fault(USAGE, 0). Which word it was is not kept. -/
def execCmdInvalid (_op : Word) (s : State) : Host.Outcome State Fault Refusal :=
  .next (if s.busy then s.abortRun else s.acceptCmd.takeFault .usage 0)

/-- CMD_WHILE_BUSY (R232): the value is not decoded. "A write that lands after the run has ended …
is accepted by rule R230 instead". -/
def execCmdWhileBusy (op : Word) (s : State) : Host.Outcome State Fault Refusal :=
  .next
    (if s.busy then s.abortRun
    else if op = Config.opCompress then s.acceptCmd.startCompress
    else if op = Config.opExpand then s.acceptCmd.startExpand
    else s.acceptCmd.takeFault .usage 0)

end Sys2Proof.Machine
end

