-- ==== Sys2Proof/Machine/Dispatch.lean ====
section
/-! DEFINITION. One arm per row of the opcode map. -/

namespace Sys2Proof.Machine

def exec (i : Instr) (s : State) : Host.Outcome State Fault Refusal :=
  match i with
  | .cmdCompress => Sys2Proof.Machine.execCmdCompress s
  | .cmdExpand => Sys2Proof.Machine.execCmdExpand s
  | .cmdInvalid op => Sys2Proof.Machine.execCmdInvalid op s
  | .cmdWhileBusy op => Sys2Proof.Machine.execCmdWhileBusy op s
  | .cwFirstEos => Sys2Proof.Machine.execCwFirstEos s
  | .cwFirstLit b => Sys2Proof.Machine.execCwFirstLit b s
  | .cwFirstBad k => Sys2Proof.Machine.execCwFirstBad k s
  | .cwNextEos => Sys2Proof.Machine.execCwNextEos s
  | .cwNextHit k => Sys2Proof.Machine.execCwNextHit k s
  | .cwNextSelfref k => Sys2Proof.Machine.execCwNextSelfref k s
  | .cwNextBad k => Sys2Proof.Machine.execCwNextBad k s

end Sys2Proof.Machine
end

