-- ==== Sys2Proof/Machine/Expand.lean ====
section
/-! DEFINITION. The phases of expand (43_expand R191 to R204), with the reconstruction of
41_code_table R139 for X_EMIT. X_FIRST, X_READ and X_RESOLVE run the code-word instruction that the
decoder reads in their context. One definition per phase; each is one engine step. -/

namespace Sys2Proof.Machine

/-- X_SEED (R191). -/
def phaseXSeed (s : State) : Host.Outcome State Fault Refusal :=
  .next { s.tabSeed with
    nextCode := Config.firstFree
    codeCount := 0
    byteCount := 0
    phase := .xFirst }

/-- X_FIRST (R192): TRUNCATED at end of data, before any read (R255); else the first code is taken
and its instruction runs. -/
def phaseXFirst (s : State) : Host.Outcome State Fault Refusal :=
  match s.srcCode with
  | none => .next (s.takeFault .truncated 0)
  | some k => exec (decodeFirst k) (s.takeCode k)

/-- X_EMIT (R196, R139): start the reconstruction of T(CUR). -/
def phaseXEmit (s : State) : Host.Outcome State Fault Refusal :=
  .next { s with sp := 0, p := s.cur, phase := .xPush }

/-- X_PUSH (R139): push one byte of the chain onto the LIFO. -/
def phaseXPush (s : State) : Host.Outcome State Fault Refusal :=
  if s.p = Config.nil then .next { s with phase := .xPop }
  else if s.sp.toNat < Config.maxSeqLen then
    .next { s with
      lifo := Memory.write s.lifo s.sp.toNat (s.tabAt s.p).suffix
      sp := s.sp + 1
      p := (s.tabAt s.p).pre
      phase := .xPush }
  else .fault .lifoOutOfRange

/-- X_POP (R139): pop one byte and emit it. -/
def phaseXPop (s : State) : Host.Outcome State Fault Refusal :=
  if s.sp = 0 then .next { s with phase := .xRead }
  else if s.sp.toNat ≤ Config.maxSeqLen then
    .next { s.emit (.byte (s.lifoAt (s.sp.toNat - 1))) with
      sp := s.sp - 1
      byteCount := s.byteCount + 1
      phase := .xPop }
  else .fault .lifoOutOfRange

/-- X_READ (R197): TRUNCATED at end of data; else the next code is taken, EOS ends the run, and any
other code goes to X_RESOLVE. -/
def phaseXRead (s : State) : Host.Outcome State Fault Refusal :=
  match s.srcCode with
  | none => .next (s.takeFault .truncated 0)
  | some k =>
    if k = Config.eos then exec .cwNextEos (s.takeCode k)
    else .next { s.takeCode k with phase := .xResolve }

/-- X_RESOLVE (R199 to R201): the instruction of the code in K, by NEXT_CODE (R86). -/
def phaseXResolve (s : State) : Host.Outcome State Fault Refusal :=
  exec (decodeNext s.nextCode s.k) s

/-- X_GROW (R202): append current plus the first byte of next, unless the code space is
exhausted. -/
def phaseXGrow (s : State) : Host.Outcome State Fault Refusal :=
  .next { (if s.nextCode < Config.limit then s.tabAppend else s) with phase := .xAdv }

/-- X_ADV (R203): next becomes current. -/
def phaseXAdv (s : State) : Host.Outcome State Fault Refusal :=
  .next { s with cur := s.k, phase := .xEmit }

/-- X_CLOSE (R204): Close is delivered, then STATE is DONE. -/
def phaseXClose (s : State) : Host.Outcome State Fault Refusal :=
  .next { s.emit .close with phase := .done }

end Sys2Proof.Machine
end

