-- ==== Sys2Proof/Machine/Engine.lean ====
section
/-! DEFINITION. One engine step: the phase says which (10_state R38, R39). In IDLE, DONE and FAULT
the engine takes no step and every register keeps its value (60_exceptions R253, R269). -/

namespace Sys2Proof.Machine

/-- One step of the engine. -/
def engineStep (s : State) : Host.Outcome State Fault Refusal :=
  match s.phase with
  | .idle => .next s
  | .cSeed => phaseCSeed s
  | .cMatch => phaseCMatch s
  | .cWalk => phaseCWalk s
  | .cEmit => phaseCEmit s
  | .cGrow => phaseCGrow s
  | .cAdv => phaseCAdv s
  | .cEos => phaseCEos s
  | .cClose => phaseCClose s
  | .xSeed => phaseXSeed s
  | .xFirst => phaseXFirst s
  | .xEmit => phaseXEmit s
  | .xPush => phaseXPush s
  | .xPop => phaseXPop s
  | .xRead => phaseXRead s
  | .xResolve => phaseXResolve s
  | .xGrow => phaseXGrow s
  | .xAdv => phaseXAdv s
  | .xClose => phaseXClose s
  | .done => .next s
  | .fault => .next s

end Sys2Proof.Machine
end

