-- ==== Sys2Proof/Machine/Wire.lean ====
section
/-! DEFINITION. The wire contract of the ports (44_host_interface R227 to R229, R238): Unpack turns
wire bytes into the codes of a source, Pack turns codes into wire bytes, and the bytes a packing sink
makes of a run's events. The first bit of the stream is bit 7 of byte 0. -/

namespace Sys2Proof.Machine

/-- The bits of a value of width `w`, most significant first (R227, R228). -/
def msbBits {w : Nat} (v : BitVec w) : List Bool := (List.range w).map v.getMsbD

/-- The number whose bits, most significant first, are `bs`. -/
def ofMsbBits (bs : List Bool) : Nat := bs.foldl (fun a b => 2 * a + b.toNat) 0

/-- The complete groups of `w` bits of a stream, with `fuel` at least their number; bits left over
are dropped. -/
def bitGroups (w : Nat) : Nat → List Bool → List Nat
  | 0, _ => []
  | fuel + 1, bs =>
    if bs.length < w then [] else ofMsbBits (bs.take w) :: bitGroups w fuel (bs.drop w)

/-- The bits of a list of words, the first word first (R227, R228). -/
def streamBits {w : Nat} (vs : List (BitVec w)) : List Bool := vs.flatMap msbBits

/-- Unpack(w): the codes of a stream of wire bytes; the last 0..11 bits are ignored (R227). -/
def unpack (bytes : List Byte) : List Code :=
  (bitGroups 12 bytes.length (streamBits bytes)).map (BitVec.ofNat 12)

/-- The zero bits that fill the last byte (R228). -/
def padBits (n : Nat) : List Bool := List.replicate ((8 - n % 8) % 8) false

/-- Pack(cs): codes densely packed, the last byte filled with zeros (R228). -/
def pack (codes : List Code) : List Byte :=
  let bits := streamBits codes
  let padded := bits ++ padBits bits.length
  (bitGroups 8 padded.length padded).map (BitVec.ofNat 8)

/-- The finite code source made from wire bytes: its content is Unpack of them (R223; the FEED of
R92). -/
def CodeSource.ofWire (bytes : List Byte) : CodeSource :=
  { codes := unpack bytes, tail := .ends }

/-- The codes of a list of events, in order. -/
def codesOf (events : List Event) : List Code :=
  events.filterMap fun e => match e with
    | .code c => some c
    | .byte _ => none
    | .close => none
    | .abort => none

/-- The bytes of a list of events, in order: the output of an expand run (R229). -/
def bytesOf (events : List Event) : List Byte :=
  events.filterMap fun e => match e with
    | .code _ => none
    | .byte b => some b
    | .close => none
    | .abort => none

/-- The wire bytes a packing sink is bound to have written for the events of one compress run. After
Close they are Pack of the codes (R228). Without Close, the last byte is written only once it is
full: after Abort the bytes are unspecified beyond the last full byte (R238), and the model gives
the full bytes only (notes/assumptions/24.md). -/
def wireOf (events : List Event) : List Byte :=
  let codes := codesOf events
  if events.contains .close then pack codes else (pack codes).take (12 * codes.length / 8)

end Sys2Proof.Machine
end

