-- ==== Sys2Proof/Machine/HostPort.lean ====
section
/-! DEFINITION. The host's transactions (44_host_interface R220 to R240): register reads and writes,
INBUF reads and writes, attaching a code source, and reset. Each is one atomic step. -/

namespace Sys2Proof.Machine

/-- The value of a register when no run is in progress (R22 to R36). -/
def State.regValue (s : State) (idx : RegIdx) : Word :=
  match idx.toNat with
  | 0 => 0
  | 1 => s.statusWord
  | 2 => s.inLen
  | 3 => s.nextCode.setWidth 32
  | 4 => s.codeCount
  | 5 => s.byteCount
  | 6 => s.faultInfo.setWidth 32
  | _ => 0

/-- The value of a register while a run is in progress (R33): NEXT_CODE, CODE_COUNT, BYTE_COUNT,
FAULT_INFO and STATUS bits [31:3] are the free value; the rest is definite. -/
def State.regMidRun (s : State) (free : Word) (idx : RegIdx) : Word :=
  match idx.toNat with
  | 0 => 0
  | 1 => s.statusMidRun free
  | 2 => s.inLen
  | 3 => free
  | 4 => free
  | 5 => free
  | 6 => free
  | _ => 0

/-- What `RegRead(idx)` answers (R221). -/
def State.readReg (s : State) (idx : RegIdx) : Word :=
  if s.busy then s.regMidRun (Config.freeRead s.draws) idx else s.regValue idx

/-- `RegRead(idx)`: no register read has a side effect (R67); the model records the answer, and the
next read mid-run draws another free value. -/
def hostRegRead (idx : RegIdx) (s : State) : Host.Outcome State Fault Refusal :=
  .next { s with
    replies := s.replies ++ [.reg idx (s.readReg idx)]
    draws := if s.busy then s.draws + 1 else s.draws }

/-- `RegWrite(idx, v)` (R221): CMD is the command it decodes to (R230 to R233), IN_LEN stores the
value in every state (R30), and any other write is ignored (R234). -/
def hostRegWrite (idx : RegIdx) (v : Word) (s : State) : Host.Outcome State Fault Refusal :=
  if idx = 0 then exec (decodeCmd s.busy v) s
  else if idx = 2 then .next { s with inLen := v }
  else .next s

/-- `BufRead(a)`: answered at any time (R62, R63). -/
def hostBufRead (a : Word) (s : State) : Host.Outcome State Fault Refusal :=
  .next { s with replies := s.replies ++ [.buf a (s.bufRead a)] }

/-- `BufWrite(a, b)`: dropped while COMPRESSING (R62) and at an offset ≥ N_MAX (R63). -/
def hostBufWrite (a : Word) (b : Byte) (s : State) : Host.Outcome State Fault Refusal :=
  if s.phase.mode = .compressing ∨ ¬ a.toNat < s.nMax.toNat then .next s
  else .next { s with inbuf := Memory.write s.inbuf a.toNat b }

/-- Attach or replace the code source; the host has no such move while EXPANDING (R239). R223 gives the
read position only at each EXPAND, where it is 0; that it is 0 from the attach on is the model's
(DESIGN CHOICE, notes/assumptions/29.md). -/
def hostAttach (src : CodeSource) (s : State) : Host.Outcome State Fault Refusal :=
  if s.phase.mode = .expanding then .refused .attachWhileExpanding
  else .next { s with source := src, srcPos := 0 }

/-- Reset (R281). -/
def hostReset (s : State) : Host.Outcome State Fault Refusal := .next s.assertReset

/-- One transaction of the host. -/
def hostMove (m : HostMove) (s : State) : Host.Outcome State Fault Refusal :=
  match m with
  | .regRead idx => hostRegRead idx s
  | .regWrite idx v => hostRegWrite idx v s
  | .bufRead a => hostBufRead a s
  | .bufWrite a b => hostBufWrite a b s
  | .attach src => hostAttach src s
  | .reset => hostReset s

/-- FEED (R92): attach the source that holds these wire bytes. -/
def feed (bytes : List Byte) : HostMove := .attach (CodeSource.ofWire bytes)

/-- LOADBUF (R93): the bytes at the offsets from `a` on. -/
def loadFrom (a : Word) : List Byte → List Turn
  | [] => []
  | b :: bs => .host (.bufWrite a b) :: loadFrom (a + 1) bs

/-- LOADBUF (R93): write the bytes from offset 0 and their number to IN_LEN. -/
def loadBuf (bytes : List Byte) : List Turn :=
  loadFrom 0 bytes ++ [.host (.regWrite 2 (BitVec.ofNat 32 bytes.length))]

/-! ## One step of the interleaving -/

/-- One turn: the next entry of `turns` says who moves (R292). A `wait` (R92) that the run has not ended
leaves the engine a step and stays (notes/assumptions/5.md). When nothing is listed the engine steps
(fairness, R292; notes/assumptions/3.md). -/
def takeTurn (s : State) : Host.Outcome State Fault Refusal :=
  match s.turns with
  | [] => engineStep s
  | .engine :: ts => engineStep { s with turns := ts }
  | .host m :: ts => hostMove m { s with turns := ts }
  | .wait :: ts => if s.ended then .next { s with turns := ts } else engineStep s

/-! ## Placing one instruction where the next step runs it -/

/-- A command word: the host's next transaction is the write of it to CMD. -/
def State.placeCmd (s : State) (op : Word) : State :=
  { s with turns := .host (.regWrite 0 op) :: s.turns }

/-- A code word: in X_RESOLVE the code in K; in X_FIRST and X_READ the one code of a source at its
first position; elsewhere the state right after X_SEED with that source, so that the word is the
first code of an expand run (notes/assumptions/13.md). The next turn is the engine's. -/
def State.placeCode (s : State) (k : Code) : State :=
  let turns := .engine :: s.turns
  let source : CodeSource := { codes := [k], tail := .ends }
  match s.phase with
  | .xResolve => { s with k := k, turns := turns }
  | .xFirst => { s with source := source, srcPos := 0, turns := turns }
  | .xRead => { s with source := source, srcPos := 0, turns := turns }
  | _ =>
    { s.acceptCmd.tabSeed with
      nextCode := Config.firstFree
      phase := .xFirst
      source := source
      srcPos := 0
      turns := turns }

/-- The word with number `w` where the next step takes its instruction; a number that is no word of
either format changes nothing. -/
def State.placeWord (s : State) (nbits w : Nat) : State :=
  match readWord nbits w with
  | .ok (.cmd op) => s.placeCmd op
  | .ok (.code k) => s.placeCode k
  | .error _ => s

end Sys2Proof.Machine
end

