-- ==== Sys2Proof/Safety.lean ====
section
/-! DEFINITION. What claims about the machine are stated in: good and bad ends of a run (00_scope
R18), and the invariant of the machine. The invariant has three parts: the registers and memories in
every state, the compress side while a compress run is past C_SEED, and the expand side while an
expand run is past X_SEED. -/

namespace Sys2Proof.Machine

/-- The run ended in DONE; a run that ends in FAULT is a bad run (R18). -/
def State.goodEnd (s : State) : Prop := s.phase = .done

/-- `k` is a bound code: 0..255 or 257..NEXT_CODE−1 (R130, R112). -/
def State.bound (s : State) (k : Code) : Prop :=
  k ≠ Config.eos ∧ k.toNat < s.nextCode.toNat

/-- A length allowed for the sequence of code `k`: 1 for a seeded code, at most k − 255 for a
learned one (R104, R135). -/
def lenBound (k : Code) : Nat := if k.toNat < 256 then 1 else k.toNat - 255

/-- The registers and memories, in every state. -/
structure RegInv (s : State) : Prop where
  /-- R9: N_MAX is at least 1 -/
  nMax_pos : 0 < s.nMax.toNat
  /-- INBUF is in canonical form and lists no offset ≥ N_MAX -/
  inbuf_wf : Memory.wf s.nMax.toNat s.inbuf = true
  /-- the trie arena is in canonical form, indices 0..4095 (R41) -/
  node_wf : Memory.wf Config.arenaSize s.node = true
  /-- the table is in canonical form, indices 0..4095 (R41) -/
  tab_wf : Memory.wf Config.arenaSize s.tab = true
  /-- the LIFO is in canonical form, addresses 0..3839 (R41) -/
  lifo_wf : Memory.wf Config.maxSeqLen s.lifo = true
  /-- R31, R43: the legal values of NEXT_CODE -/
  nextCode_legal : s.nextCode = 0 ∨ 257 ≤ s.nextCode.toNat ∧ s.nextCode.toNat ≤ 4096
  /-- R251, R259: a cause is recorded exactly in phase FAULT -/
  cause_iff : s.cause ≠ .none ↔ s.phase = .fault
  /-- R35: FAULT_INFO is 0 unless the cause is MALFORMED -/
  faultInfo_zero : s.faultInfo = 0 ∨ s.cause = .malformed
  /-- R280, R282: in IDLE every host register but IN_LEN is at its reset value -/
  idle_rest : s.phase = .idle →
    s.nextCode = 0 ∧ s.codeCount = 0 ∧ s.byteCount = 0 ∧ s.selfref = false
  /-- R286: the clean entry of a run -/
  seed_entry : s.phase = .cSeed ∨ s.phase = .xSeed →
    s.nextCode = 0 ∧ s.codeCount = 0 ∧ s.byteCount = 0 ∧ s.selfref = false
  /-- a run past its seed phase, and one that ended in DONE, has NEXT_CODE ≥ 257 (R31) -/
  seeded : (s.busy = true ∧ s.phase ≠ .cSeed ∧ s.phase ≠ .xSeed) ∨ s.phase = .done →
    257 ≤ s.nextCode.toNat
  /-- SELFREF is never set in a compress run (R29) -/
  compress_selfref : s.phase.mode = .compressing → s.selfref = false
  /-- the codes learned in the run are 257, 258, …, NEXT_CODE−1, in order (R43, R173) -/
  assigns_codes : s.assigns.map (fun x => x.1.toNat) = List.range' 257 (s.nextCode.toNat - 257)
  /-- each learned sequence has 2 to k − 255 bytes (R104, R135) -/
  assigns_len : ∀ x ∈ s.assigns, 2 ≤ x.2.length ∧ x.2.length ≤ x.1.toNat - 255

/-- A trie node is well linked: it ends the key of its own code (R120), and each link is NIL or
names a learned code that was allocated later (R112, R117). -/
def State.nodeOk (s : State) (k : Code) : Prop :=
  (Memory.read s.node k.toNat).isSome ∧
  (s.nodeAt k).term = true ∧ (s.nodeAt k).code = k ∧
  (k.toNat < 256 →
    (s.nodeAt k).c = litByte k ∧ (s.nodeAt k).lo = Config.nil ∧ (s.nodeAt k).hi = Config.nil) ∧
  ∀ d : Dir, linkOf (s.nodeAt k) d = Config.nil ∨
    257 ≤ (linkOf (s.nodeAt k) d).toNat ∧ k.toNat < (linkOf (s.nodeAt k) d).toNat ∧
      s.bound (linkOf (s.nodeAt k) d)

/-- What the walk's registers hold from its start to the growth step (R115, R116): the match so far
is a bound code of its length, inside the input, and the miss is recorded at a bound node. -/
structure MatchInv (s : State) : Prop where
  len_pos    : 1 ≤ s.bestLen.toNat
  fits       : s.i.toNat + s.bestLen.toNat ≤ s.n.toNat
  best_bound : s.bound s.bestCode
  best_len   : s.bestLen.toNat ≤ lenBound s.bestCode
  miss_bound : s.bound s.missNode
  miss_after : s.bestCode.toNat ≤ s.missNode.toNat
  root_miss  : s.missNode.toNat < 256 → s.missDir = .eq

/-- The compress side, in a compress run past C_SEED; and N ≤ N_MAX from the command on (R69). -/
structure CompressInv (s : State) : Prop where
  /-- R69: N ≤ N_MAX -/
  n_le : s.phase.mode = .compressing → s.n.toNat ≤ s.nMax.toNat
  /-- R37: the offset never passes the end of the input -/
  i_le : s.phase.mode = .compressing → s.phase ≠ .cSeed → s.i.toNat ≤ s.n.toNat
  /-- R34: BYTE_COUNT equals I -/
  byteCount_eq : s.phase.mode = .compressing → s.phase ≠ .cSeed → s.byteCount = s.i
  /-- every bound code's node is well linked -/
  nodes : s.phase.mode = .compressing → s.phase ≠ .cSeed → ∀ k, s.bound k → s.nodeOk k
  /-- the registers of the match -/
  matched : s.phase = .cWalk ∨ s.phase = .cEmit ∨ s.phase = .cGrow ∨ s.phase = .cAdv → MatchInv s
  /-- during the walk J is the end of the match so far, and P is the missed link (R115) -/
  walking : s.phase = .cWalk →
    s.j.toNat = s.i.toNat + s.bestLen.toNat ∧ s.p = linkOf (s.nodeAt s.missNode) s.missDir
  /-- R116: after the walk, the missed link is NIL unless the match reached the end of the input -/
  missed : s.phase = .cEmit ∨ s.phase = .cGrow → s.i.toNat + s.bestLen.toNat < s.n.toNat →
    linkOf (s.nodeAt s.missNode) s.missDir = Config.nil
  /-- the whole input has been consumed when EOS is emitted (R162) -/
  at_end : s.phase = .cEos ∨ s.phase = .cClose → s.i = s.n

/-- A table entry is well chained (R136 to R138, R142): a seeded entry is the byte itself; a learned
one extends an earlier bound code by one byte and keeps that code's first byte. -/
def State.entryOk (s : State) (k : Code) : Prop :=
  (Memory.read s.tab k.toNat).isSome ∧
  if k.toNat < 256 then s.tabAt k = seedEntry k.toNat
  else
    s.bound (s.tabAt k).pre ∧ (s.tabAt k).pre.toNat < k.toNat ∧
    (s.tabAt k).len.toNat = (s.tabAt (s.tabAt k).pre).len.toNat + 1 ∧
    (s.tabAt k).len.toNat ≤ k.toNat - 255 ∧
    (s.tabAt k).first = (s.tabAt (s.tabAt k).pre).first

/-- The phases in which CUR holds the code of `current` (R42). -/
def Phase.hasCurrent (p : Phase) : Prop :=
  p = .xEmit ∨ p = .xPush ∨ p = .xPop ∨ p = .xRead ∨ p = .xResolve ∨ p = .xGrow

/-- The expand side, in an expand run past X_SEED. -/
structure ExpandInv (s : State) : Prop where
  /-- every bound code's entry is well chained -/
  entries : s.phase.mode = .expanding → s.phase ≠ .xSeed → ∀ k, s.bound k → s.entryOk k
  /-- CUR is bound while it holds `current` (R42) -/
  current : s.phase.hasCurrent → s.bound s.cur
  /-- while pushing, what is on the LIFO and what is left of the chain make up |T(CUR)| (R140) -/
  pushing : s.phase = .xPush →
    (s.p = Config.nil ∧ s.sp.toNat = (s.tabAt s.cur).len.toNat) ∨
    (s.bound s.p ∧ s.sp.toNat + (s.tabAt s.p).len.toNat = (s.tabAt s.cur).len.toNat)
  /-- while popping, at most |T(CUR)| bytes are left -/
  popping : s.phase = .xPop → s.sp.toNat ≤ (s.tabAt s.cur).len.toNat
  /-- the code being resolved is not EOS (R197) -/
  resolving : s.phase = .xResolve → s.k ≠ Config.eos
  /-- the code that grows the table is bound, or is the one this growth binds (R206); NFIRST is the
  first byte of `next` (R199, R200, R207) -/
  growing : s.phase = .xGrow →
    (s.bound s.k ∧ s.nfirst = s.firstOf s.k) ∨
    (s.k ≠ Config.eos ∧ s.k.toNat = s.nextCode.toNat ∧ s.nfirst = s.firstOf s.cur)
  /-- the code that becomes current is bound (R203) -/
  advancing : s.phase = .xAdv → s.bound s.k

/-- The invariant of the machine. -/
structure Inv (s : State) : Prop where
  reg : RegInv s
  compress : CompressInv s
  expand : ExpandInv s

/-! ## What claims about whole runs are stated in -/

/-- The input X of a compress run, INBUF[0..N) (R61). -/
def State.input (s : State) : Seq := s.inbufSlice 0 s.n.toNat

/-- `k` engine steps in a row, with no host transaction between them. -/
def engineRun : Nat → State → Host.Outcome State Fault Refusal
  | 0, s => .next s
  | k + 1, s =>
    match engineStep s with
    | .next t => engineRun k t
    | .fault f => .fault f
    | .refused r => .refused r

/-- The state the engine steps from when the next turn is the engine's: nothing is listed, or an
engine turn is, or a wait for a run that has not ended (R92, R292; notes/assumptions/3.md and
notes/assumptions/5.md). -/
def State.engineTurn (s : State) : Option State :=
  match s.turns with
  | [] => some s
  | .engine :: ts => some { s with turns := ts }
  | .wait :: _ => if s.ended then none else some s
  | .host _ :: _ => none

/-- An outcome with `f` applied to its next state, if it has one. -/
def onNext (f : State → State) :
    Host.Outcome State Fault Refusal → Host.Outcome State Fault Refusal
  | .next s => .next (f s)
  | .fault r => .fault r
  | .refused r => .refused r

/-- `q` is a node of the child tree whose link is `p`: reached from it by lo and hi links (R114). -/
inductive State.InTree (s : State) : Code → Code → Prop where
  | here (p : Code) (hp : p ≠ Config.nil) : State.InTree s p p
  | lo (p q : Code) (hp : p ≠ Config.nil) (h : State.InTree s (s.nodeAt p).lo q) :
      State.InTree s p q
  | hi (p q : Code) (hp : p ≠ Config.nil) (h : State.InTree s (s.nodeAt p).hi q) :
      State.InTree s p q

/-- The search-tree order of the children (R114): smaller bytes under lo, greater ones under hi. -/
def State.TrieOrdered (s : State) : Prop :=
  ∀ p q, s.bound p →
    (s.InTree (s.nodeAt p).lo q → (s.nodeAt q).c < (s.nodeAt p).c) ∧
    (s.InTree (s.nodeAt p).hi q → (s.nodeAt p).c < (s.nodeAt q).c)

/-- R141 for every bound code: the chain of its entry spells T(k), whose first byte and length the
entry holds. -/
def State.TableSound (s : State) : Prop :=
  ∀ k, s.bound k →
    s.table k = some (s.seqOf k) ∧ (s.seqOf k).head? = some (s.tabAt k).first ∧
      (s.seqOf k).length = (s.tabAt k).len.toNat

/-- What R141 asks of a state: the chained table represents T in an expand run past X_SEED. -/
def TableInv (s : State) : Prop :=
  s.phase.mode = .expanding → s.phase ≠ .xSeed → s.TableSound

end Sys2Proof.Machine
end

