-- ==== Sys2Proof/Certificates/Slice0/Obligations.lean ====
section
/-! DEFINITION. The statements for the provers, in the order of OBLIGATIONS.json. A record equation
`exec i s = .next { s with … }` gives an instruction's result and says that every other field of the
state keeps its value. Rule numbers are those of spec/. -/

open Sys2Proof Sys2Proof.Machine

/-! ## Reset, invariant, progress -/

/-- R280, R281: reset, in any phase, leaves every register at its reset value, delivers no event and
does not touch the code source; and so is the state after power-up. -/
def Obligations.ResetTransaction : Prop :=
  (∀ s : State, ∃ t, hostMove .reset s = .next t ∧
    t.phase = .idle ∧ t.phase.mode.bits = 0 ∧ t.irq = false ∧ t.statusWord = 0 ∧ t.cause = .none ∧
    (∀ idx, t.readReg idx = 0) ∧
    (∀ x, t.dict x = none) ∧ (∀ k, t.table k = none) ∧
    t.sink = s.sink ∧ t.source = s.source ∧ t.srcPos = s.srcPos ∧ t.nMax = s.nMax) ∧
  (State.reset.phase = .idle ∧ State.reset.irq = false ∧ State.reset.statusWord = 0 ∧
    (∀ idx, State.reset.readReg idx = 0) ∧
    (∀ x, State.reset.dict x = none) ∧ (∀ k, State.reset.table k = none) ∧
    State.reset.sink = [] ∧ State.reset.source.codes = [] ∧ State.reset.source.tail = .ends)

/-- The invariant holds after reset, for every capacity N_MAX ≥ 1 (R9). -/
def Obligations.ResetMeetsInvariant : Prop :=
  Inv State.reset ∧ ∀ m : Word, 0 < m.toNat → Inv (State.resetWith m)

/-- Every step keeps the invariant: the canonical form of the memories, the legal values of the
registers (R31, R34, R35, R37, R43), N ≤ N_MAX (R69), the length bounds (R104, R135), the trie links
and the chains (R112, R116, R120, R142). -/
def Obligations.StepKeepsInvariant : Prop :=
  ∀ s t : State, Inv s → step s = .next t → Inv t

/-- No step stops (R38, R69, R140): what the model calls a fault of its own is never reached, and
what it refuses is only an attach while EXPANDING, a move the host does not have (R239). -/
def Obligations.StepNeverStops : Prop :=
  ∀ s : State, Inv s →
    (∀ src ts, s.turns = .host (.attach src) :: ts → s.phase.mode ≠ .expanding) →
    ∃ t, step s = .next t

/-! ## The host registers -/

/-- R25, R27, R28, R263: the fields of STATUS, the level of irq, a write and a read of STATUS (a read
adds to the model's log of replies and, mid-run, uses up a free value), and its value after reset. -/
def Obligations.StatusWordLayout : Prop :=
  (∀ s : State,
    s.statusWord.extractLsb' 0 3 = s.phase.mode.bits ∧
    s.statusWord.getLsbD 3 = decide (s.nextCode.toNat = 4096) ∧
    s.statusWord.getLsbD 4 = s.irq ∧
    (s.irq = true ↔ s.phase.mode = .done ∨ s.phase.mode = .fault) ∧
    s.statusWord.getLsbD 5 = s.selfref ∧
    s.statusWord.extractLsb' 6 2 = 0 ∧
    s.statusWord.extractLsb' 8 4 = s.cause.bits ∧
    s.statusWord.extractLsb' 12 20 = 0) ∧
  (∀ (s : State) (v : Word), hostMove (.regWrite 1 v) s = .next s) ∧
  (∀ s : State, ∃ t, hostMove (.regRead 1) s = .next t ∧
    t = { s with replies := t.replies, draws := t.draws }) ∧
  State.reset.statusWord = 0 ∧
  Mode.idle.bits = 0 ∧ Mode.compressing.bits = 1 ∧ Mode.expanding.bits = 2 ∧ Mode.done.bits = 3 ∧
  Mode.fault.bits = 4 ∧
  Cause.none.bits = 0 ∧ Cause.usage.bits = 1 ∧ Cause.malformed.bits = 2 ∧
  Cause.truncated.bits = 3 ∧ Cause.cmdBusy.bits = 4 ∧ Cause.length.bits = 5

/-- R26: STATE is a function of the phase, and the only steps that change it are reset, an accepted
CMD write, a CMD write while busy, the end of a run, and a fault of a phase. -/
def Obligations.StateTransitions : Prop :=
  (∀ p : Phase,
    (p.mode = .idle ↔ p = .idle) ∧
    (p.mode = .compressing ↔ p = .cSeed ∨ p = .cMatch ∨ p = .cWalk ∨ p = .cEmit ∨ p = .cGrow ∨
      p = .cAdv ∨ p = .cEos ∨ p = .cClose) ∧
    (p.mode = .expanding ↔ p = .xSeed ∨ p = .xFirst ∨ p = .xEmit ∨ p = .xPush ∨ p = .xPop ∨
      p = .xRead ∨ p = .xResolve ∨ p = .xGrow ∨ p = .xAdv ∨ p = .xClose) ∧
    (p.mode = .done ↔ p = .done) ∧ (p.mode = .fault ↔ p = .fault)) ∧
  ∀ s t : State, step s = .next t → t.phase.mode ≠ s.phase.mode →
    (∃ ts, s.turns = .host .reset :: ts ∧ t.phase.mode = .idle) ∨
    (∃ v ts, s.turns = .host (.regWrite 0 v) :: ts ∧ s.busy = false ∧
      ((v = 0x2D ∧ s.inLen.toNat ≤ s.nMax.toNat ∧ t.phase.mode = .compressing) ∨
       (v = 0x2B ∧ t.phase.mode = .expanding) ∨
       (v = 0x2D ∧ s.nMax.toNat < s.inLen.toNat ∧ t.phase.mode = .fault ∧ t.cause = .length) ∨
       (v ≠ 0x2D ∧ v ≠ 0x2B ∧ t.phase.mode = .fault ∧ t.cause = .usage))) ∨
    (∃ v ts, s.turns = .host (.regWrite 0 v) :: ts ∧ s.busy = true ∧ t.phase.mode = .fault ∧
      t.cause = .cmdBusy) ∨
    (s.engineTurn.isSome = true ∧ (s.phase = .cClose ∨ s.phase = .xClose) ∧
      t.phase.mode = .done) ∨
    (s.engineTurn.isSome = true ∧ (s.phase = .xFirst ∨ s.phase = .xRead ∨ s.phase = .xResolve) ∧
      t.phase.mode = .fault ∧ (t.cause = .truncated ∨ t.cause = .malformed))

/-- R22 to R36: what each register index answers when no run is in progress, and that a read changes
nothing (the model adds the answer to its log of replies). -/
def Obligations.QuiescentRegisterReads : Prop :=
  ∀ s : State, s.busy = false →
    s.readReg 0 = 0 ∧ s.readReg 1 = s.statusWord ∧ s.readReg 2 = s.inLen ∧
    (s.readReg 3).toNat = s.nextCode.toNat ∧ s.readReg 4 = s.codeCount ∧
    s.readReg 5 = s.byteCount ∧ (s.readReg 6).toNat = s.faultInfo.toNat ∧
    (∀ idx : RegIdx, 7 ≤ idx.toNat → s.readReg idx = 0) ∧
    ∀ idx : RegIdx, hostMove (.regRead idx) s =
      .next { s with replies := s.replies ++ [.reg idx (s.readReg idx)] }

/-- R33: mid-run, NEXT_CODE, CODE_COUNT, BYTE_COUNT, FAULT_INFO and STATUS bits [31:3] read as a
value about which nothing is known; STATE reads 1 or 2. The model's, not words of R33: that the value is
of 32 bits and that each read draws a new one (log entry 8, DEDUCED), the counter of the draws (log
entry 9), the log of the replies (log entry 17); and that CMD, IN_LEN and the reserved indices read as
they do at rest (R23, R30, R36; log entry 8). A read changes nothing else. -/
def Obligations.MidRunRegisterReads : Prop :=
  ∀ s : State, s.busy = true →
    (s.readReg 1).extractLsb' 0 3 = s.phase.mode.bits ∧
    ((s.readReg 1).extractLsb' 0 3 = 1 ∨ (s.readReg 1).extractLsb' 0 3 = 2) ∧
    (s.readReg 1).extractLsb' 3 29 = (Config.freeRead s.draws).extractLsb' 3 29 ∧
    s.readReg 3 = Config.freeRead s.draws ∧ s.readReg 4 = Config.freeRead s.draws ∧
    s.readReg 5 = Config.freeRead s.draws ∧ s.readReg 6 = Config.freeRead s.draws ∧
    s.readReg 0 = 0 ∧ s.readReg 2 = s.inLen ∧
    (∀ idx : RegIdx, 7 ≤ idx.toNat → s.readReg idx = 0) ∧
    ∀ idx : RegIdx, hostMove (.regRead idx) s =
      .next { s with
        replies := s.replies ++ [.reg idx (s.readReg idx)]
        draws := s.draws + 1 }

/-- R234, R36: a write to STATUS, NEXT_CODE, CODE_COUNT, BYTE_COUNT, FAULT_INFO or a reserved index
has no effect, in every state; CMD and the reserved indices read 0, with no side effect (the model adds
the answer to its log of replies and, mid-run, uses up a free value). -/
def Obligations.IgnoredRegisterWrites : Prop :=
  (∀ (s : State) (idx : RegIdx) (v : Word), idx ≠ 0 → idx ≠ 2 →
    hostMove (.regWrite idx v) s = .next s) ∧
  ∀ (s : State) (idx : RegIdx), idx = 0 ∨ 7 ≤ idx.toNat → s.readReg idx = 0 ∧
    ∃ t, hostMove (.regRead idx) s = .next t ∧
      t = { s with replies := t.replies, draws := t.draws }

/-- R30: IN_LEN is written in every state and reads back as written. N changes only when a COMPRESS
is accepted, which samples IN_LEN into it, and at reset (where the value of N is the model's choice,
log entry 2). -/
def Obligations.InLenSampling : Prop :=
  (∀ (s : State) (v : Word), hostMove (.regWrite 2 v) s = .next { s with inLen := v } ∧
    State.readReg { s with inLen := v } 2 = v) ∧
  ∀ s t : State, step s = .next t → t.n ≠ s.n →
    (∃ ts, s.turns = .host (.regWrite 0 0x2D) :: ts ∧ s.busy = false ∧ t.phase = .cSeed ∧
      t.n = s.inLen) ∨
    (∃ ts, s.turns = .host .reset :: ts)

/-! ## INBUF, the code source -/

/-- R62, R63: an INBUF write is dropped while COMPRESSING and at an offset ≥ N_MAX; otherwise the
byte is stored and every other byte reads as before. A read is answered at any time, with 0x00 at an
offset ≥ N_MAX, and changes nothing (the model adds the answer to its log of replies). -/
def Obligations.InbufPort : Prop :=
  (∀ (s : State) (a : Word) (b : Byte),
    s.phase.mode = .compressing ∨ s.nMax.toNat ≤ a.toNat →
      hostMove (.bufWrite a b) s = .next s) ∧
  (∀ (s : State) (a : Word) (b : Byte), s.phase.mode ≠ .compressing → a.toNat < s.nMax.toNat →
    ∃ t, hostMove (.bufWrite a b) s = .next t ∧ t = { s with inbuf := t.inbuf } ∧
      ∀ a', t.bufRead a' = if a' = a then b else s.bufRead a') ∧
  (∀ (s : State) (a : Word), s.nMax.toNat ≤ a.toNat → s.bufRead a = 0) ∧
  ∀ (s : State) (a : Word),
    hostMove (.bufRead a) s = .next { s with replies := s.replies ++ [.buf a (s.bufRead a)] }

/-- R222, R76: the engine never writes INBUF. A byte of INBUF changes only by the host's write of it,
never while COMPRESSING, or at reset (which leaves INBUF unspecified, R280). -/
def Obligations.InbufWriters : Prop :=
  ∀ s t : State, step s = .next t →
    (∀ a, t.bufRead a = s.bufRead a) ∨
    (∃ a b ts, s.turns = .host (.bufWrite a b) :: ts ∧ s.phase.mode ≠ .compressing ∧
      a.toNat < s.nMax.toNat ∧ ∀ a', t.bufRead a' = if a' = a then b else s.bufRead a') ∨
    (∃ ts, s.turns = .host .reset :: ts)

/-- R239, R223: the host attaches a code source in every state but EXPANDING (there the model
refuses, log entry 16), and nothing else changes the source. That the read position is 0 from the
attach on, and not only from the next EXPAND, is the model's choice (log entry 29). -/
def Obligations.AttachSource : Prop :=
  (∀ (s : State) (src : CodeSource), s.phase.mode ≠ .expanding →
    hostMove (.attach src) s = .next { s with source := src, srcPos := 0 }) ∧
  (∀ (s : State) (src : CodeSource), s.phase.mode = .expanding →
    hostMove (.attach src) s = .refused .attachWhileExpanding) ∧
  ∀ s t : State, step s = .next t → t.source ≠ s.source →
    ∃ src ts, s.turns = .host (.attach src) :: ts ∧ s.phase.mode ≠ .expanding ∧ t.source = src

/-- R226, R208: `eod` is true exactly past the last code of a finite source, and never for an infinite
one. The engine takes a code only in X_FIRST and X_READ, only where `eod` is false, one per phase: the
code at the read position, which moves on by one. -/
def Obligations.SourceReads : Prop :=
  (∀ s : State, s.source.tail = .ends →
    (s.srcEod = true ↔ s.source.codes.length ≤ s.srcPos) ∧
    s.srcCode = s.source.codes[s.srcPos]?) ∧
  (∀ s : State, s.source.tail ≠ .ends → s.srcEod = false) ∧
  (∀ (s t : State) (k : Code), s.phase = .xFirst ∨ s.phase = .xRead → s.srcCode = some k →
    engineStep s = .next t →
    t.k = k ∧ t.reads = s.reads ++ [k] ∧ t.srcPos = s.srcPos + 1 ∧
      t.codeCount = s.codeCount + 1) ∧
  ∀ s t : State, engineStep s = .next t →
    (t.reads = s.reads ∧ t.srcPos = s.srcPos) ∨
    ((s.phase = .xFirst ∨ s.phase = .xRead) ∧ s.srcEod = false ∧ t.srcPos = s.srcPos + 1)

/-! ## The command words -/

/-- R160 with R230 and R30: CMD_COMPRESS, where it is accepted and IN_LEN ≤ N_MAX, clears what every
accepted write clears and starts the run. That N takes IN_LEN here, and not in C_SEED, is log
entry 11; that the other datapath registers carry over into the run is the model's choice (log
entry 2). -/
def Obligations.CompressCommandStartsRun : Prop :=
  ∀ s : State, s.busy = false → s.inLen.toNat ≤ s.nMax.toNat →
    exec .cmdCompress s = .next { s with
      codeCount := 0, byteCount := 0, faultInfo := 0, cause := .none, selfref := false
      nextCode := 0, assigns := [], n := s.inLen, phase := .cSeed }

/-- R233: a COMPRESS with IN_LEN > N_MAX faults with LENGTH before C_SEED: no run, no event, NEXT_CODE
stays 0. -/
def Obligations.CompressCommandLength : Prop :=
  ∀ s : State, s.busy = false → s.nMax.toNat < s.inLen.toNat →
    exec .cmdCompress s = .next { s with
      codeCount := 0, byteCount := 0, faultInfo := 0, cause := .length, selfref := false
      nextCode := 0, assigns := [], phase := .fault }

/-- R190 with R230: CMD_EXPAND starts the run from X_SEED, with the source read from its first code
(R223); while a run is in progress it is CMD_BUSY (R232). That the datapath registers carry over into
the run is the model's choice (log entry 2). -/
def Obligations.ExpandCommand : Prop :=
  (∀ s : State, s.busy = false →
    exec .cmdExpand s = .next { s with
      codeCount := 0, byteCount := 0, faultInfo := 0, cause := .none, selfref := false
      nextCode := 0, assigns := [], srcPos := 0, phase := .xSeed }) ∧
  ∀ s : State, s.busy = true →
    exec .cmdExpand s = .next { s with
      sink := s.sink ++ [.abort], cause := .cmdBusy, faultInfo := 0, phase := .fault }

/-- R231: any other word is a USAGE fault at decode, without an event; STATUS is then 0x00000114 and
every counter is 0. -/
def Obligations.InvalidCommand : Prop :=
  ∀ (s : State) (v : Word), s.busy = false → v ≠ 0x2D → v ≠ 0x2B →
    ∃ t, hostMove (.regWrite 0 v) s = .next t ∧ exec (.cmdInvalid v) s = .next t ∧
      t = { s with
        codeCount := 0, byteCount := 0, faultInfo := 0, cause := .usage, selfref := false
        nextCode := 0, assigns := [], phase := .fault } ∧
      t.statusWord = 0x00000114

/-- R232: any CMD write while a run is in progress aborts it, whatever the word: Abort is delivered,
the counters and SELFREF keep the values the run reached, FAULT_INFO is 0. -/
def Obligations.BusyWriteAborts : Prop :=
  ∀ (s : State) (v : Word), s.busy = true →
    exec (.cmdWhileBusy v) s = .next { s with
      sink := s.sink ++ [.abort], cause := .cmdBusy, faultInfo := 0, phase := .fault } ∧
    hostMove (.regWrite 0 v) s = exec (.cmdWhileBusy v) s

/-- What a command word leaves unchanged, in every state (R230, R232, R252): the memories, IN_LEN,
N_MAX, the code source, and every datapath register but N, which only a COMPRESS that starts a run
writes; the sink too, unless a run was in progress. That the datapath registers carry over into a run
is the model's choice (log entry 2). -/
def Obligations.CommandFrame : Prop :=
  ∀ (i : Instr) (v : Word) (s t : State),
    i = .cmdCompress ∨ i = .cmdExpand ∨ i = .cmdInvalid v ∨ i = .cmdWhileBusy v →
    exec i s = .next t →
    (∀ a, t.inbufByte a = s.inbufByte a) ∧ (∀ p, t.nodeAt p = s.nodeAt p) ∧
    (∀ k, t.tabAt k = s.tabAt k) ∧ (∀ a, t.lifoAt a = s.lifoAt a) ∧
    t.nMax = s.nMax ∧ t.inLen = s.inLen ∧
    (t.n = s.n ∨ t.phase = .cSeed ∧ t.n = s.inLen) ∧
    t.i = s.i ∧ t.j = s.j ∧ t.p = s.p ∧ t.bestCode = s.bestCode ∧ t.bestLen = s.bestLen ∧
    t.missNode = s.missNode ∧ t.missDir = s.missDir ∧ t.cur = s.cur ∧ t.k = s.k ∧
    t.nfirst = s.nfirst ∧ t.sp = s.sp ∧
    t.source = s.source ∧ (t.srcPos = s.srcPos ∨ t.phase = .xSeed ∧ t.srcPos = 0) ∧
    t.reads = s.reads ∧ t.replies = s.replies ∧
    t.sink = (if s.busy then s.sink ++ [.abort] else s.sink)

/-! ## The code words -/

/-- R193: a first code of 256 ends the run with no byte. -/
def Obligations.FirstEos : Prop :=
  ∀ s : State, s.phase = .xFirst → s.k = 0x100 →
    exec .cwFirstEos s = .next { s with phase := .xClose }

/-- R194: a first code 0..255 becomes `current`, the one-byte sequence of its value; nothing is
appended. -/
def Obligations.FirstLit : Prop :=
  ∀ (s : State) (b : Byte), s.phase = .xFirst → s.k = b.setWidth 12 →
    exec (.cwFirstLit b) s = .next { s with cur := s.k, phase := .xEmit } ∧
    tableLookup s.assigns s.k = some [b]

/-- R195: a first code ≥ 257 faults with MALFORMED and is recorded. -/
def Obligations.FirstBad : Prop :=
  ∀ (s : State) (k : Code), s.phase = .xFirst → s.k = k → 257 ≤ k.toNat →
    exec (.cwFirstBad k) s = .next { s with
      sink := s.sink ++ [.abort], cause := .malformed, faultInfo := k, phase := .fault }

/-- R198: a later code of 256, read in X_READ, ends the run; nothing is appended. The X_RESOLVE form is
the model's reading of R86 (log entry 27, DEDUCED). -/
def Obligations.NextEos : Prop :=
  ∀ s : State, s.phase = .xRead ∨ s.phase = .xResolve → s.k = 0x100 →
    exec .cwNextEos s = .next { s with phase := .xClose }

/-- R199: a code below NEXT_CODE is looked up: NFIRST takes the first byte of its sequence. -/
def Obligations.NextHit : Prop :=
  ∀ (s : State) (k : Code), s.phase = .xResolve → s.k = k → k ≠ 0x100 →
    k.toNat < s.nextCode.toNat →
    exec (.cwNextHit k) s = .next { s with nfirst := (s.tabAt k).first, phase := .xGrow } ∧
    ∀ q : Seq, s.TableSound → s.table k = some q → q.head? = some (s.tabAt k).first

/-- R200: a code equal to NEXT_CODE is inferred: NFIRST takes the first byte of `current`, and SELFREF
is set. -/
def Obligations.NextSelfref : Prop :=
  ∀ (s : State) (k : Code), s.phase = .xResolve → s.k = k → k ≠ 0x100 →
    k.toNat = s.nextCode.toNat →
    exec (.cwNextSelfref k) s = .next { s with
      nfirst := (s.tabAt s.cur).first, selfref := true, phase := .xGrow }

/-- R201: a code above NEXT_CODE faults with MALFORMED and is recorded; nothing is appended. -/
def Obligations.NextBad : Prop :=
  ∀ (s : State) (k : Code), s.phase = .xResolve → s.k = k → k ≠ 0x100 →
    s.nextCode.toNat < k.toNat →
    exec (.cwNextBad k) s = .next { s with
      sink := s.sink ++ [.abort], cause := .malformed, faultInfo := k, phase := .fault }

/-- What a code word leaves unchanged (R193 to R201, R260): every memory, the counters, the bindings,
the source, and every register but the one its row writes. -/
def Obligations.CodeWordFrame : Prop :=
  ∀ (i : Instr) (s t : State), exec i s = .next t →
    (i = .cwFirstEos ∨ (∃ b, i = .cwFirstLit b) ∨ (∃ k, i = .cwFirstBad k) ∨ i = .cwNextEos ∨
      (∃ k, i = .cwNextHit k) ∨ (∃ k, i = .cwNextSelfref k) ∨ (∃ k, i = .cwNextBad k)) →
    (∀ a, t.inbufByte a = s.inbufByte a) ∧ (∀ p, t.nodeAt p = s.nodeAt p) ∧
    (∀ k, t.tabAt k = s.tabAt k) ∧ (∀ a, t.lifoAt a = s.lifoAt a) ∧
    t.nMax = s.nMax ∧ t.inLen = s.inLen ∧ t.nextCode = s.nextCode ∧
    t.codeCount = s.codeCount ∧ t.byteCount = s.byteCount ∧ t.n = s.n ∧ t.i = s.i ∧ t.j = s.j ∧
    t.p = s.p ∧ t.bestCode = s.bestCode ∧ t.bestLen = s.bestLen ∧ t.missNode = s.missNode ∧
    t.missDir = s.missDir ∧ t.k = s.k ∧ t.sp = s.sp ∧ t.assigns = s.assigns ∧
    t.source = s.source ∧ t.srcPos = s.srcPos ∧ t.reads = s.reads ∧
    (t.cur = s.cur ∨ ∃ b, i = .cwFirstLit b) ∧
    (t.nfirst = s.nfirst ∨ (∃ k, i = .cwNextHit k) ∨ (∃ k, i = .cwNextSelfref k)) ∧
    (t.selfref = s.selfref ∨ ∃ k, i = .cwNextSelfref k) ∧
    ((t.sink = s.sink ∧ t.cause = s.cause ∧ t.faultInfo = s.faultInfo) ∨
      (∃ k, i = .cwFirstBad k ∨ i = .cwNextBad k))

/-- Where a code-word row does not apply, its meaning stops by name (R87; the model's choice, log
entry 14). -/
def Obligations.CodeWordOutOfContext : Prop :=
  (∀ s : State, ¬ (s.phase = .xFirst ∧ s.k = 0x100) →
    exec .cwFirstEos s = .fault .outOfContext) ∧
  (∀ (s : State) (b : Byte), ¬ (s.phase = .xFirst ∧ s.k = b.setWidth 12) →
    exec (.cwFirstLit b) s = .fault .outOfContext) ∧
  (∀ (s : State) (k : Code), ¬ (s.phase = .xFirst ∧ s.k = k ∧ 257 ≤ k.toNat) →
    exec (.cwFirstBad k) s = .fault .outOfContext) ∧
  (∀ s : State, ¬ ((s.phase = .xRead ∨ s.phase = .xResolve) ∧ s.k = 0x100) →
    exec .cwNextEos s = .fault .outOfContext) ∧
  (∀ (s : State) (k : Code),
    ¬ (s.phase = .xResolve ∧ s.k = k ∧ k ≠ 0x100 ∧ k.toNat < s.nextCode.toNat) →
    exec (.cwNextHit k) s = .fault .outOfContext) ∧
  (∀ (s : State) (k : Code),
    ¬ (s.phase = .xResolve ∧ s.k = k ∧ k ≠ 0x100 ∧ k.toNat = s.nextCode.toNat) →
    exec (.cwNextSelfref k) s = .fault .outOfContext) ∧
  (∀ (s : State) (k : Code),
    ¬ (s.phase = .xResolve ∧ s.k = k ∧ k ≠ 0x100 ∧ s.nextCode.toNat < k.toNat) →
    exec (.cwNextBad k) s = .fault .outOfContext)

/-! ## The step -/

/-- A step runs the instruction its word decodes to, in the context that reads the word (R86, R87):
a CMD write, the first code of a stream, a later EOS, and the code being resolved. Around `exec` stand
only the turn that is used up and the taking of the code (R192, R197). Any other turn of the engine is
the step of its phase, and any other turn of the host is its transaction (R292). Three clauses hold the
model's own conventions: that the order of turns is a list in the state, and that the engine steps when
it is empty (log entry 3, DESIGN CHOICE); that a wait gives the engine its steps while the run has not
ended, and is used up when it has (R92; log entry 5, DEDUCED). -/
def Obligations.StepRunsDecodedInstruction : Prop :=
  (∀ (s : State) (v : Word) (ts : List Turn) (i : Instr),
    s.turns = .host (.regWrite 0 v) :: ts → decode s.cmdCtx (.cmd v) = .ok i →
    step s = exec i { s with turns := ts }) ∧
  (∀ (s u : State) (k : Code) (i : Instr), s.engineTurn = some u → s.phase = .xFirst →
    s.srcCode = some k → decode .first (.code k) = .ok i → step s = exec i (u.takeCode k)) ∧
  (∀ (s u : State) (i : Instr), s.engineTurn = some u → s.phase = .xRead →
    s.srcCode = some 0x100 → decode (.next s.nextCode) (.code 0x100) = .ok i →
    step s = exec i (u.takeCode 0x100)) ∧
  (∀ (s u : State) (i : Instr), s.engineTurn = some u → s.phase = .xResolve →
    decode (.next s.nextCode) (.code s.k) = .ok i → step s = exec i u) ∧
  (∀ s u : State, s.engineTurn = some u → step s = engineStep u) ∧
  (∀ (s : State) (m : HostMove) (ts : List Turn), s.turns = .host m :: ts →
    step s = hostMove m { s with turns := ts }) ∧
  ∀ (s : State) (ts : List Turn), s.turns = .wait :: ts → s.ended = true →
    step s = .next { s with turns := ts }

/-- R269: in IDLE, DONE and FAULT the engine takes no step; only a CMD write or reset leaves them, and
every register keeps its value but IN_LEN where the host writes it. -/
def Obligations.QuiescentHolds : Prop :=
  ∀ s t : State, s.busy = false → step s = .next t →
    (∀ v ts, s.turns ≠ .host (.regWrite 0 v) :: ts) → (∀ ts, s.turns ≠ .host .reset :: ts) →
    t = { s with
      inLen := t.inLen, inbuf := t.inbuf, source := t.source, srcPos := t.srcPos
      replies := t.replies, turns := t.turns } ∧
    (t.inLen = s.inLen ∨ ∃ ts, s.turns = .host (.regWrite 2 t.inLen) :: ts)

/-! ## The phases of compress -/

/-- C_SEED (R161): TRIE_SEED (R113) builds the 256 root nodes and leaves every other node; D is D0, the
single bytes (R101). NEXT_CODE is 257, I and the counters are 0. N is unchanged: R161 writes
`reg.N <- reg.IN_LEN` here, and the model took IN_LEN at the command (log entry 11, DEDUCED). -/
def Obligations.CSeedPhase : Prop :=
  ∀ s : State, s.phase = .cSeed → ∃ t, engineStep s = .next t ∧
    t = { s with
      node := t.node, i := 0, nextCode := 257, codeCount := 0, byteCount := 0, phase := .cMatch } ∧
    (∀ p : Code, t.nodeAt p =
      if p.toNat < 256 then
        { c := p.setWidth 8, lo := 0x100, eq := 0x100, hi := 0x100, term := true, code := p }
      else s.nodeAt p) ∧
    (s.assigns = [] → ∀ x : Seq, t.dict x =
      match x with
      | [b] => some (b.setWidth 12)
      | _ => none)

/-- R115, R162: C_MATCH goes to C_EOS at the end of the input and starts the walk elsewhere; a C_WALK
step ends the walk at the end of the input or at a NIL link, and otherwise visits one node. -/
def Obligations.MatchAndWalkPhases : Prop :=
  (∀ s : State, s.phase = .cMatch → s.i = s.n →
    engineStep s = .next { s with phase := .cEos }) ∧
  (∀ (s : State) (m : Node), s.phase = .cMatch → s.i ≠ s.n → s.i.toNat < s.nMax.toNat →
    m = s.nodeAt ((s.inbufByte s.i).setWidth 12) →
    engineStep s = .next { s with
      bestCode := m.code, bestLen := 1, missNode := (s.inbufByte s.i).setWidth 12, missDir := .eq
      p := m.eq, j := s.i + 1, phase := .cWalk }) ∧
  (∀ s : State, s.phase = .cWalk → s.j = s.n ∨ s.p = 0x100 →
    engineStep s = .next { s with phase := .cEmit }) ∧
  (∀ (s : State) (b : Byte) (m : Node), s.phase = .cWalk → s.j ≠ s.n → s.p ≠ 0x100 →
    s.j.toNat < s.nMax.toNat → b = s.inbufByte s.j → m = s.nodeAt s.p →
    (b < m.c → engineStep s = .next { s with missNode := s.p, missDir := .lo, p := m.lo }) ∧
    (m.c < b → engineStep s = .next { s with missNode := s.p, missDir := .hi, p := m.hi }) ∧
    (b = m.c → engineStep s = .next { s with
      bestCode := m.code, bestLen := BitVec.ofNat 12 (s.j.toNat - s.i.toNat + 1)
      missNode := s.p, missDir := .eq, p := m.eq, j := s.j + 1 }))

/-- R164, R108, R117: C_GROW inserts the match and the byte after it, bound to NEXT_CODE, when there
is such a byte and the code space is not exhausted: one new node, linked at the recorded miss; and
otherwise changes nothing but the phase. -/
def Obligations.CGrowPhase : Prop :=
  (∀ (s : State) (k : Code) (w : Seq), s.phase = .cGrow →
    s.i.toNat + s.bestLen.toNat < s.n.toNat → s.n.toNat ≤ s.nMax.toNat →
    0 < s.nextCode.toNat → s.nextCode.toNat < 4096 → k.toNat = s.nextCode.toNat →
    s.missNode ≠ k → 1 ≤ s.bestLen.toNat → w = s.inbufSlice s.i (s.bestLen.toNat + 1) →
    ∃ t, engineStep s = .next t ∧
      t = { s with
        node := t.node, assigns := s.assigns ++ [(k, w)], nextCode := t.nextCode
        phase := .cAdv } ∧
      t.nextCode.toNat = s.nextCode.toNat + 1 ∧
      t.exhausted = decide (s.nextCode.toNat = 4095) ∧
      (∀ q : Code, t.nodeAt q =
        if q = k then
          { c := s.inbufByte (s.i + s.bestLen.setWidth 32), lo := 0x100, eq := 0x100, hi := 0x100
            term := true, code := k }
        else if q = s.missNode then
          (match s.missDir with
          | .lo => { s.nodeAt q with lo := k }
          | .eq => { s.nodeAt q with eq := k }
          | .hi => { s.nodeAt q with hi := k })
        else s.nodeAt q) ∧
      (s.dict w = none → t.dict w = some k) ∧ ∀ x : Seq, x ≠ w → t.dict x = s.dict x) ∧
  ∀ s : State, s.phase = .cGrow →
    s.n.toNat ≤ s.i.toNat + s.bestLen.toNat ∨ s.nextCode.toNat = 4096 →
    engineStep s = .next { s with phase := .cAdv }

/-- R163, R166, R167, R204: the phases that emit a code or close the output. -/
def Obligations.EmitAndClosePhases : Prop :=
  (∀ s : State, s.phase = .cEmit →
    engineStep s = .next { s with
      sink := s.sink ++ [.code s.bestCode], codeCount := s.codeCount + 1, phase := .cGrow }) ∧
  (∀ s : State, s.phase = .cEos →
    engineStep s = .next { s with
      sink := s.sink ++ [.code 256], codeCount := s.codeCount + 1, phase := .cClose }) ∧
  ∀ s : State, s.phase = .cClose ∨ s.phase = .xClose →
    engineStep s = .next { s with sink := s.sink ++ [.close], phase := .done }

/-- R165: C_ADV moves I past the match; BYTE_COUNT takes the new I. The sum does not wrap. -/
def Obligations.CAdvPhase : Prop :=
  ∀ s : State, s.phase = .cAdv → s.i.toNat + s.bestLen.toNat ≤ s.n.toNat →
    ∃ t, engineStep s = .next t ∧ t.i.toNat = s.i.toNat + s.bestLen.toNat ∧
      t.byteCount = t.i ∧ t = { s with i := t.i, byteCount := t.byteCount, phase := .cMatch }

/-! ## The phases of expand -/

/-- R191, R137: X_SEED builds the 256 one-byte entries and leaves every other entry; T is T0 (R131).
NEXT_CODE is 257 and the counters are 0. -/
def Obligations.XSeedPhase : Prop :=
  ∀ s : State, s.phase = .xSeed → ∃ t, engineStep s = .next t ∧
    t = { s with
      tab := t.tab, nextCode := 257, codeCount := 0, byteCount := 0, phase := .xFirst } ∧
    (∀ k : Code, t.tabAt k =
      if k.toNat < 256 then
        { pre := 0x100, suffix := k.setWidth 8, first := k.setWidth 8, len := 1 }
      else s.tabAt k) ∧
    (s.assigns = [] → ∀ k : Code, t.table k =
      if k.toNat < 256 then some [k.setWidth 8] else none)

/-- R255: the end of the data at X_FIRST or X_READ is a TRUNCATED fault; no code is taken. -/
def Obligations.Truncated : Prop :=
  ∀ s : State, s.phase = .xFirst ∨ s.phase = .xRead → s.srcEod = true →
    engineStep s = .next { s with
      sink := s.sink ++ [.abort], cause := .truncated, faultInfo := 0, phase := .fault }

/-- R192, R197: X_FIRST and X_READ fault with TRUNCATED at the end of the data; otherwise they take one
code into K, count it, and go on by its value. -/
def Obligations.TakeOneCode : Prop :=
  (∀ s : State, s.phase = .xFirst ∨ s.phase = .xRead → s.srcEod = true →
    ∃ t, engineStep s = .next t ∧ t.phase = .fault ∧ t.cause = .truncated ∧ t.faultInfo = 0 ∧
      t.k = s.k ∧ t.codeCount = s.codeCount ∧ t.reads = s.reads) ∧
  ∀ (s u : State) (k : Code), s.srcCode = some k →
    u = { s with
      k := k, srcPos := s.srcPos + 1, reads := s.reads ++ [k], codeCount := s.codeCount + 1 } →
    (s.phase = .xFirst →
      (k = 0x100 → engineStep s = exec .cwFirstEos u) ∧
      (k.toNat ≤ 255 → engineStep s = exec (.cwFirstLit (k.setWidth 8)) u) ∧
      (257 ≤ k.toNat → engineStep s = exec (.cwFirstBad k) u)) ∧
    (s.phase = .xRead →
      (k = 0x100 → engineStep s = exec .cwNextEos u) ∧
      (k ≠ 0x100 → engineStep s = .next { u with phase := .xResolve }))

/-- R139: the three phases of the reconstruction of T(CUR). -/
def Obligations.ReconstructPhases : Prop :=
  (∀ s : State, s.phase = .xEmit →
    engineStep s = .next { s with sp := 0, p := s.cur, phase := .xPush }) ∧
  (∀ s : State, s.phase = .xPush → s.p = 0x100 →
    engineStep s = .next { s with phase := .xPop }) ∧
  (∀ s : State, s.phase = .xPush → s.p ≠ 0x100 → s.sp.toNat < 3840 →
    ∃ t, engineStep s = .next t ∧
      t = { s with lifo := t.lifo, sp := s.sp + 1, p := (s.tabAt s.p).pre } ∧
      t.sp.toNat = s.sp.toNat + 1 ∧
      ∀ a, t.lifoAt a = if a = s.sp.toNat then (s.tabAt s.p).suffix else s.lifoAt a) ∧
  (∀ s : State, s.phase = .xPop → s.sp = 0 → engineStep s = .next { s with phase := .xRead }) ∧
  ∀ s : State, s.phase = .xPop → 0 < s.sp.toNat → s.sp.toNat ≤ 3840 →
    ∃ t, engineStep s = .next t ∧ t.sp.toNat = s.sp.toNat - 1 ∧
      t = { s with
        sp := t.sp, sink := s.sink ++ [.byte (s.lifoAt (s.sp.toNat - 1))]
        byteCount := s.byteCount + 1 }

/-- R202, R133, R138, R203: X_GROW appends `current` and the first byte of `next`, bound to NEXT_CODE,
unless the code space is exhausted; then X_ADV makes `next` the current sequence. -/
def Obligations.XGrowAndAdvPhases : Prop :=
  (∀ (s : State) (k : Code) (q : Seq), s.phase = .xGrow → 257 ≤ s.nextCode.toNat →
    s.nextCode.toNat < 4096 → k.toNat = s.nextCode.toNat → s.bound s.cur → s.TableSound →
    s.table s.cur = some q → ∃ t, engineStep s = .next t ∧
      t = { s with
        tab := t.tab, assigns := s.assigns ++ [(k, q ++ [s.nfirst])], nextCode := t.nextCode
        phase := .xAdv } ∧
      t.nextCode.toNat = s.nextCode.toNat + 1 ∧
      t.exhausted = decide (s.nextCode.toNat = 4095) ∧
      (∀ e : Code, t.tabAt e =
        if e = k then
          { pre := s.cur, suffix := s.nfirst, first := (s.tabAt s.cur).first
            len := (s.tabAt s.cur).len + 1 }
        else s.tabAt e) ∧
      (s.table k = none → t.table k = some (q ++ [s.nfirst])) ∧
      ∀ e : Code, e ≠ k → t.table e = s.table e) ∧
  (∀ s : State, s.phase = .xGrow → s.nextCode.toNat = 4096 →
    engineStep s = .next { s with phase := .xAdv }) ∧
  ∀ s : State, s.phase = .xAdv → engineStep s = .next { s with cur := s.k, phase := .xEmit }

/-! ## Refinement and whole runs -/

/-- R141: every step keeps the chained table a representation of T: the chain of each bound code
spells its sequence, and `first` and `len` are its first byte and its length. -/
def Obligations.TableRefinesT : Prop :=
  ∀ s t : State, Inv s → TableInv s → step s = .next t → TableInv t

/-- R139, R196: from X_EMIT, the reconstruction delivers the bytes of T(CUR), first byte first, and
nothing else, in 2|T(CUR)| + 3 engine steps (R293), and reaches X_READ. -/
def Obligations.ReconstructEmitsCurrent : Prop :=
  ∀ (s : State) (q : Seq), Inv s → TableInv s → s.phase = .xEmit → s.table s.cur = some q →
    ∃ t, engineRun (2 * q.length + 3) s = .next t ∧
      t = { s with
        sink := s.sink ++ q.map .byte
        byteCount := s.byteCount + BitVec.ofNat 32 q.length
        p := t.p, sp := t.sp, lifo := t.lifo, phase := .xRead }

/-- R119, R114: after every phase of a compress run from C_SEED on, the trie represents the dictionary
D, and every child tree has the search-tree order. -/
def Obligations.TrieRefinesDictionary : Prop :=
  ∀ (s t : State) (m : Nat), Inv s → s.phase = .cSeed → 0 < m → engineRun m s = .next t →
    (∀ x : Seq, t.trieLookup x = t.dict x) ∧ t.TrieOrdered

/-- R116: when the walk reaches C_EMIT, BEST_LEN and BEST_CODE are the length and the code of the
longest prefix of the rest of the input that is in D; and where input is left, the missed link is
NIL. -/
def Obligations.WalkFindsLongestPrefix : Prop :=
  ∀ (s t : State) (m : Nat), Inv s → s.phase = .cSeed → engineRun m s = .next t →
    t.phase = .cEmit →
    t.bestLen.toNat = (longestPrefix t.assigns (t.input.drop t.i.toNat)).length ∧
    t.dict (longestPrefix t.assigns (t.input.drop t.i.toNat)) = some t.bestCode ∧
    (t.i.toNat + t.bestLen.toNat < t.n.toNat →
      t.j.toNat = t.i.toNat + t.bestLen.toNat ∧ t.p = 0x100 ∧
      linkOf (t.nodeAt t.missNode) t.missDir = 0x100)

/-- R168, R175: a compress run ends in DONE and has delivered COMPRESS(X) and Close; NEXT_CODE,
CODE_COUNT and BYTE_COUNT are those of the whole-run function, and the assign events its bindings. On
the way, right after its code n is emitted and before the growth, its bindings are those of the abstract
encoder at point n (the encoder's points of R210). -/
def Obligations.CompressRunDelivers : Prop :=
  ∀ s : State, Inv s → s.phase = .cSeed →
    (∃ m t, engineRun m s = .next t ∧
      t.phase = .done ∧
      t.sink = s.sink ++ (compressAll s.input).codes.map .code ++ [.close] ∧
      t.nextCode.toNat = (compressAll s.input).next ∧
      t.codeCount = BitVec.ofNat 32 (compressAll s.input).codes.length ∧
      t.byteCount = s.n ∧ t.cause = .none ∧ t.selfref = false ∧ t.faultInfo = 0 ∧
      t.assigns = (compressAll s.input).learned ∧ t.reads = s.reads) ∧
    ∀ n, 1 ≤ n → n < (compressAll s.input).codes.length → ∃ m t, engineRun m s = .next t ∧
      t.phase = .cGrow ∧
      t.sink = s.sink ++ ((compressAll s.input).codes.take n).map .code ∧
      t.nextCode.toNat = (encoderAt s.input n).next ∧
      t.assigns = (encoderAt s.input n).learned

/-- R205, R212: an expand run over a finite source ends, has delivered EXPAND of its codes, and then
Close in DONE or Abort in FAULT with the cause and the offending code; NEXT_CODE, CODE_COUNT,
BYTE_COUNT and SELFREF are those of the whole-run function. On the way, right after code n is processed
(after X_FIRST for n = 1, after X_GROW for n ≥ 2), its bindings are those of the abstract decoder at
point n (the decoder's points of R210). -/
def Obligations.ExpandRunDelivers : Prop :=
  ∀ (s : State) (r : ExpandResult), Inv s → s.phase = .xSeed → s.source.tail = .ends →
    s.srcPos = 0 → r = expandAll s.source.codes →
    (∃ m t, engineRun m s = .next t ∧
      t.phase = (if r.cause = .none then .done else .fault) ∧
      t.sink = s.sink ++ r.out.map .byte ++ [if r.cause = .none then .close else .abort] ∧
      t.cause = r.cause ∧ t.faultInfo = r.info ∧ t.nextCode.toNat = r.next ∧
      t.codeCount = BitVec.ofNat 32 r.count ∧ t.byteCount = BitVec.ofNat 32 r.out.length ∧
      t.selfref = r.selfref ∧ t.assigns = r.learned ∧
      t.reads = s.reads ++ s.source.codes.take r.count) ∧
    ∀ n, 1 ≤ n → n ≤ s.source.codes.length →
      (decoderAt s.source.codes n).cause = .truncated → ∃ m t, engineRun m s = .next t ∧
      t.phase = (if n = 1 then .xEmit else .xAdv) ∧
      t.reads = s.reads ++ s.source.codes.take n ∧
      t.nextCode.toNat = (decoderAt s.source.codes n).next ∧
      t.assigns = (decoderAt s.source.codes n).learned

/-- R209: EXPAND(COMPRESS(X)) = Ok(X), also through the wire. R210, the mirror invariant: at each point
n, the encoder right after its code n and the decoder right after processing it bind the same sequences
to the same codes, exactly 0..255 and 257..256 + min(n − 1, 3839), in the same order; and so do the
whole runs. This is the abstract level, where R17 fixes what the runs do; CompressRunDelivers and
ExpandRunDelivers say that the engine's bindings are these, at these points. -/
def Obligations.RoundTrip : Prop :=
  ∀ x : Seq,
    (expandAll (compressAll x).codes).out = x ∧
    (expandAll (compressAll x).codes).cause = .none ∧
    unpack (pack (compressAll x).codes) = (compressAll x).codes ∧
    (expandAll (compressAll x).codes).learned = (compressAll x).learned ∧
    (expandAll (compressAll x).codes).next = (compressAll x).next ∧
    (expandAll (compressAll x).codes).count = (compressAll x).codes.length ∧
    ∀ n, 1 ≤ n → n < (compressAll x).codes.length →
      (decoderAt (compressAll x).codes n).cause = .truncated ∧
      (decoderAt (compressAll x).codes n).learned = (encoderAt x n).learned ∧
      (decoderAt (compressAll x).codes n).next = 257 + min (n - 1) 3839 ∧
      (encoderAt x n).next = 257 + min (n - 1) 3839 ∧
      (∀ (k : Code) (w : Seq), dictLookup (encoderAt x n).learned w = some k ↔
        tableLookup (decoderAt (compressAll x).codes n).learned k = some w) ∧
      ∀ k : Code, (∃ w, tableLookup (decoderAt (compressAll x).codes n).learned k = some w) ↔
        boundAt n k

/-- R283: nothing of an earlier run reaches a compress run. Two runs on the same input go through the
same phases, deliver the same events and end with the same registers, whatever else differs: the
memories' old contents, the datapath registers, the source, N_MAX. -/
def Obligations.NoCrossRunPersistence : Prop :=
  ∀ (s₁ s₂ t₁ : State) (m : Nat), Inv s₁ → Inv s₂ → s₁.phase = .cSeed → s₂.phase = .cSeed →
    s₁.n = s₂.n → s₁.input = s₂.input → engineRun m s₁ = .next t₁ →
    ∃ t₂ es, engineRun m s₂ = .next t₂ ∧ t₂.phase = t₁.phase ∧
      t₁.sink = s₁.sink ++ es ∧ t₂.sink = s₂.sink ++ es ∧
      t₂.nextCode = t₁.nextCode ∧ t₂.codeCount = t₁.codeCount ∧ t₂.byteCount = t₁.byteCount ∧
      t₂.cause = t₁.cause ∧ t₂.selfref = t₁.selfref ∧ t₂.faultInfo = t₁.faultInfo ∧
      t₂.assigns = t₁.assigns

/-! ## Rules about the whole machine -/

/-- R31: NEXT_CODE is cleared by every accepted CMD write and by reset, set to 257 by the seed phases,
and raised by exactly 1 per binding; nothing else writes it. -/
def Obligations.NextCodeWriters : Prop :=
  ∀ s t : State, step s = .next t →
    (t.nextCode = s.nextCode ∧
      (s.busy = true → t.assigns = s.assigns)) ∨
    (∃ v ts, s.turns = .host (.regWrite 0 v) :: ts ∧ s.busy = false ∧ t.nextCode = 0) ∨
    (∃ ts, s.turns = .host .reset :: ts ∧ t.nextCode = 0) ∨
    (s.engineTurn.isSome = true ∧ (s.phase = .cSeed ∨ s.phase = .xSeed) ∧
      t.nextCode.toNat = 257) ∨
    (s.engineTurn.isSome = true ∧ (s.phase = .cGrow ∨ s.phase = .xGrow) ∧
      s.nextCode.toNat < 4096 ∧ t.nextCode.toNat = s.nextCode.toNat + 1 ∧
      ∃ k w, k.toNat = s.nextCode.toNat ∧ t.assigns = s.assigns ++ [(k, w)])

/-- R29: SELFREF is cleared by every accepted CMD write and by every reset, and set when expand resolves
a code equal to NEXT_CODE; no other step writes it, a CMD write while busy among them. -/
def Obligations.SelfrefWriters : Prop :=
  (∀ s t : State, step s = .next t → t.selfref ≠ s.selfref →
    (∃ v ts, s.turns = .host (.regWrite 0 v) :: ts ∧ s.busy = false ∧ t.selfref = false) ∨
    (∃ ts, s.turns = .host .reset :: ts ∧ t.selfref = false) ∨
    (s.engineTurn.isSome = true ∧ s.phase = .xResolve ∧ s.k.toNat = s.nextCode.toNat ∧
      t.selfref = true)) ∧
  (∀ (s t : State) (v : Word) (ts : List Turn), s.turns = .host (.regWrite 0 v) :: ts →
    step s = .next t → s.busy = false → t.selfref = false) ∧
  (∀ (s t : State) (ts : List Turn), s.turns = .host .reset :: ts → step s = .next t →
    t.selfref = false) ∧
  ∀ s t : State, s.engineTurn.isSome = true → s.phase = .xResolve →
    s.k.toNat = s.nextCode.toNat → s.k ≠ 0x100 → step s = .next t → t.selfref = true

/-- R253: which phase raises which fault, and when. An engine step enters FAULT exactly where the data
ends at X_FIRST or X_READ (TRUNCATED), or on a malformed code in X_FIRST or X_RESOLVE (MALFORMED,
R254); a compress phase never does. A CMD write raises CMD_BUSY while a run is in progress, and
otherwise USAGE or LENGTH if it raises anything. -/
def Obligations.FaultsByPhase : Prop :=
  (∀ s t : State, engineStep s = .next t → s.phase ≠ .fault →
    (t.phase = .fault ↔
      ((s.phase = .xFirst ∨ s.phase = .xRead) ∧ s.srcEod = true) ∨
      (s.phase = .xFirst ∧ ∃ k, s.srcCode = some k ∧ 257 ≤ k.toNat) ∨
      (s.phase = .xResolve ∧ s.k ≠ 0x100 ∧ s.nextCode.toNat < s.k.toNat)) ∧
    (t.phase = .fault → s.srcEod = true → s.phase ≠ .xResolve →
      t.cause = .truncated ∧ t.faultInfo = 0) ∧
    (t.phase = .fault → s.srcEod = false ∨ s.phase = .xResolve →
      t.cause = .malformed ∧ t.faultInfo = t.k)) ∧
  (∀ s : State, s.phase = .idle ∨ s.phase = .done ∨ s.phase = .fault →
    engineStep s = .next s) ∧
  ∀ (s t : State) (v : Word), hostMove (.regWrite 0 v) s = .next t → t.phase = .fault →
    t.faultInfo = 0 ∧
    (if s.busy then t.cause = .cmdBusy
     else if v = 0x2D then t.cause = .length else v ≠ 0x2B ∧ t.cause = .usage)

/-- R237, R74, R252: a run that ends has delivered Close and is DONE, or has delivered Abort and is
FAULT; irq is 1 from then on. At a fault the counters keep their values, but for the code that was
taken, and INBUF is unchanged. With no run in progress nothing is delivered. -/
def Obligations.EndOfRun : Prop :=
  (∀ s t : State, step s = .next t → s.busy = true → t.busy = false →
    (∃ ts, s.turns = .host .reset :: ts ∧ t.sink = s.sink ∧ t.irq = false) ∨
    (t.irq = true ∧
      ((t.phase = .done ∧ t.sink = s.sink ++ [.close] ∧ t.cause = s.cause) ∨
       (t.phase = .fault ∧ t.sink = s.sink ++ [.abort] ∧ t.cause ≠ .none ∧
        t.nextCode = s.nextCode ∧ t.byteCount = s.byteCount ∧ t.selfref = s.selfref ∧
        (t.codeCount = s.codeCount ∨
          t.codeCount = s.codeCount + 1 ∧ ∃ k, t.reads = s.reads ++ [k]) ∧
        ∀ a, t.bufRead a = s.bufRead a)))) ∧
  ∀ s t : State, step s = .next t → s.busy = false → t.sink = s.sink

/-- R91, R224, R292: each step delivers at most one event, and takes nothing back: a Code in C_EMIT
and C_EOS, a Byte in X_POP, Close as the run becomes DONE, Abort as a run becomes FAULT. So a run
never mixes Code and Byte events. -/
def Obligations.EventsByPhase : Prop :=
  (∀ s t : State, engineStep s = .next t →
    t.sink = s.sink ∨
    (s.phase = .cEmit ∧ t.sink = s.sink ++ [.code s.bestCode]) ∨
    (s.phase = .cEos ∧ t.sink = s.sink ++ [.code 0x100]) ∨
    (s.phase = .xPop ∧ ∃ b, t.sink = s.sink ++ [.byte b]) ∨
    ((s.phase = .cClose ∨ s.phase = .xClose) ∧ t.phase = .done ∧ t.sink = s.sink ++ [.close]) ∨
    (s.phase.mode = .expanding ∧ t.phase = .fault ∧ t.sink = s.sink ++ [.abort])) ∧
  ∀ (s t : State) (m : HostMove), hostMove m s = .next t →
    t.sink = s.sink ∨
    (∃ v, m = .regWrite 0 v ∧ s.busy = true ∧ t.phase = .fault ∧ t.sink = s.sink ++ [.abort])

/-- R292, R240, R62, R190, R223: the host's moves other than a CMD write and reset do not change a run
in progress. They change only IN_LEN, the replies, and what the run does not read (the source in a
compress run, INBUF in an expand run); and the engine's step does not depend on those. -/
def Obligations.PassiveHostMoves : Prop :=
  (∀ (s t : State) (m : HostMove), hostMove m s = .next t → m ≠ .reset →
    (∀ v, m ≠ .regWrite 0 v) →
    (s.phase.mode = .compressing → t = { s with
      inLen := t.inLen, replies := t.replies, draws := t.draws, source := t.source
      srcPos := t.srcPos }) ∧
    (s.phase.mode = .expanding → t = { s with
      inLen := t.inLen, replies := t.replies, draws := t.draws, inbuf := t.inbuf })) ∧
  (∀ (s : State) (l : Word) (rs : List Reply) (d : Nat) (src : CodeSource) (pos : Nat),
    s.phase.mode = .compressing →
    engineStep { s with inLen := l, replies := rs, draws := d, source := src, srcPos := pos } =
      onNext (fun t => { t with inLen := l, replies := rs, draws := d, source := src, srcPos := pos })
        (engineStep s)) ∧
  ∀ (s : State) (l : Word) (rs : List Reply) (d : Nat) (buf : Memory Byte),
    s.phase.mode = .expanding →
    engineStep { s with inLen := l, replies := rs, draws := d, inbuf := buf } =
      onNext (fun t => { t with inLen := l, replies := rs, draws := d, inbuf := buf }) (engineStep s)

/-! ## Encoding -/

/-- Decode and encode agree, for every instruction, in every context its row belongs to, with every
operand the encoding admits (R81, R84, R87). -/
def Obligations.DecodeEncode : Prop :=
  ∀ (i : Instr) (c : Ctx), i.fits c = true → decode c (encode i) = .ok i

/-- R86, R87, R89: every command word and every code word decodes, in every context that reads it, to
exactly one row: one that fits there, whose word it is, and no other row does. A word of the other
format is rejected (R65). -/
def Obligations.EveryWordDecodes : Prop :=
  (∀ (c : Ctx) (op : Word), c = .cmdFree ∨ c = .cmdBusy → ∃ i, decode c (.cmd op) = .ok i ∧
    i.fits c = true ∧ encode i = .cmd op ∧
    ∀ j : Instr, j.fits c = true → encode j = .cmd op → j = i) ∧
  (∀ (c : Ctx) (k : Code), (c = .first ∨ ∃ nc, c = .next nc) → ∃ i, decode c (.code k) = .ok i ∧
    i.fits c = true ∧ encode i = .code k ∧
    ∀ j : Instr, j.fits c = true → encode j = .code k → j = i) ∧
  (∀ (c : Ctx) (k : Code), c = .cmdFree ∨ c = .cmdBusy →
    decode c (.code k) = .error .wrongPort) ∧
  ∀ (c : Ctx) (op : Word), (c = .first ∨ ∃ nc, c = .next nc) →
    decode c (.cmd op) = .error .wrongPort

/-- Words written out from the opcode map (R87) decode to their rows, in the contexts the map gives. -/
def Obligations.SpecWordsDecode : Prop :=
  decode .cmdFree (.cmd 0b00000000000000000000000000101101) = .ok .cmdCompress ∧
  decode .cmdFree (.cmd 0b00000000000000000000000000101011) = .ok .cmdExpand ∧
  decode .cmdFree (.cmd 0b00000000000000000000000100101101) = .ok (.cmdInvalid 0x12D) ∧
  decode .cmdBusy (.cmd 0b00000000000000000000000000101101) = .ok (.cmdWhileBusy 0x2D) ∧
  decode .first (.code 0b000100000000) = .ok .cwFirstEos ∧
  decode .first (.code 0b000001000001) = .ok (.cwFirstLit 0x41) ∧
  decode .first (.code 0b000011111111) = .ok (.cwFirstLit 0xFF) ∧
  decode .first (.code 0b000100000001) = .ok (.cwFirstBad 0x101) ∧
  decode (.next 258) (.code 0b000100000000) = .ok .cwNextEos ∧
  decode (.next 258) (.code 0b000100000001) = .ok (.cwNextHit 0x101) ∧
  decode (.next 258) (.code 0b000100000010) = .ok (.cwNextSelfref 0x102) ∧
  decode (.next 258) (.code 0b000100000011) = .ok (.cwNextBad 0x103)

/-- R228, R176: Unpack undoes Pack, and Pack gives ceil(12m / 8) bytes; R227: Unpack gives
floor(8L / 12) codes. -/
def Obligations.PackUnpack : Prop :=
  (∀ cs : List Code, unpack (pack cs) = cs) ∧
  (∀ cs : List Code, (pack cs).length = (12 * cs.length + 7) / 8) ∧
  ∀ w : List Byte, (unpack w).length = 8 * w.length / 12

/-- R227, R228: bit by bit. Bit n of the wire, counted from bit 7 of byte 0, is bit 11 − n mod 12 of
code n / 12, for Unpack and for Pack alike; Pack's bits past the last code are 0. -/
def Obligations.WireBits : Prop :=
  (∀ w : List Byte, (unpack w).length = 8 * w.length / 12) ∧
  (∀ cs : List Code, (pack cs).length = (12 * cs.length + 7) / 8) ∧
  (∀ (w : List Byte) (j b : Nat), j < (unpack w).length → b < 12 →
    ((unpack w).getD j 0).getMsbD b = (w.getD ((12 * j + b) / 8) 0).getMsbD ((12 * j + b) % 8)) ∧
  (∀ (cs : List Code) (n : Nat), n < 12 * cs.length →
    ((pack cs).getD (n / 8) 0).getMsbD (n % 8) = (cs.getD (n / 12) 0).getMsbD (n % 12)) ∧
  ∀ (cs : List Code) (n : Nat), 12 * cs.length ≤ n → n < 8 * (pack cs).length →
    ((pack cs).getD (n / 8) 0).getMsbD (n % 8) = false
end

