-- ==== Sys2Proof/Laws/State.lean ====
section
/-! SUPPORT. One lemma per field per update of the state, each true by unfolding the update once, so
that no later proof unfolds a record update. -/

namespace Sys2Proof.Machine

/-! ## emit -/

@[simp] theorem emit_nMax (s : State) (e : Event) : (s.emit e).nMax = s.nMax := rfl
@[simp] theorem emit_phase (s : State) (e : Event) : (s.emit e).phase = s.phase := rfl
@[simp] theorem emit_cause (s : State) (e : Event) : (s.emit e).cause = s.cause := rfl
@[simp] theorem emit_selfref (s : State) (e : Event) : (s.emit e).selfref = s.selfref := rfl
@[simp] theorem emit_inLen (s : State) (e : Event) : (s.emit e).inLen = s.inLen := rfl
@[simp] theorem emit_nextCode (s : State) (e : Event) : (s.emit e).nextCode = s.nextCode := rfl
@[simp] theorem emit_codeCount (s : State) (e : Event) : (s.emit e).codeCount = s.codeCount := rfl
@[simp] theorem emit_byteCount (s : State) (e : Event) : (s.emit e).byteCount = s.byteCount := rfl
@[simp] theorem emit_faultInfo (s : State) (e : Event) : (s.emit e).faultInfo = s.faultInfo := rfl
@[simp] theorem emit_n (s : State) (e : Event) : (s.emit e).n = s.n := rfl
@[simp] theorem emit_i (s : State) (e : Event) : (s.emit e).i = s.i := rfl
@[simp] theorem emit_j (s : State) (e : Event) : (s.emit e).j = s.j := rfl
@[simp] theorem emit_p (s : State) (e : Event) : (s.emit e).p = s.p := rfl
@[simp] theorem emit_bestCode (s : State) (e : Event) : (s.emit e).bestCode = s.bestCode := rfl
@[simp] theorem emit_bestLen (s : State) (e : Event) : (s.emit e).bestLen = s.bestLen := rfl
@[simp] theorem emit_missNode (s : State) (e : Event) : (s.emit e).missNode = s.missNode := rfl
@[simp] theorem emit_missDir (s : State) (e : Event) : (s.emit e).missDir = s.missDir := rfl
@[simp] theorem emit_cur (s : State) (e : Event) : (s.emit e).cur = s.cur := rfl
@[simp] theorem emit_k (s : State) (e : Event) : (s.emit e).k = s.k := rfl
@[simp] theorem emit_nfirst (s : State) (e : Event) : (s.emit e).nfirst = s.nfirst := rfl
@[simp] theorem emit_sp (s : State) (e : Event) : (s.emit e).sp = s.sp := rfl
@[simp] theorem emit_inbuf (s : State) (e : Event) : (s.emit e).inbuf = s.inbuf := rfl
@[simp] theorem emit_node (s : State) (e : Event) : (s.emit e).node = s.node := rfl
@[simp] theorem emit_tab (s : State) (e : Event) : (s.emit e).tab = s.tab := rfl
@[simp] theorem emit_lifo (s : State) (e : Event) : (s.emit e).lifo = s.lifo := rfl
@[simp] theorem emit_source (s : State) (e : Event) : (s.emit e).source = s.source := rfl
@[simp] theorem emit_srcPos (s : State) (e : Event) : (s.emit e).srcPos = s.srcPos := rfl
@[simp] theorem emit_sink (s : State) (e : Event) : (s.emit e).sink = s.sink ++ [e] := rfl
@[simp] theorem emit_reads (s : State) (e : Event) : (s.emit e).reads = s.reads := rfl
@[simp] theorem emit_assigns (s : State) (e : Event) : (s.emit e).assigns = s.assigns := rfl
@[simp] theorem emit_replies (s : State) (e : Event) : (s.emit e).replies = s.replies := rfl
@[simp] theorem emit_turns (s : State) (e : Event) : (s.emit e).turns = s.turns := rfl
@[simp] theorem emit_draws (s : State) (e : Event) : (s.emit e).draws = s.draws := rfl
@[simp] theorem emit_epoch (s : State) (e : Event) : (s.emit e).epoch = s.epoch := rfl

/-! ## takeCode -/

@[simp] theorem takeCode_nMax (s : State) (c : Code) : (s.takeCode c).nMax = s.nMax := rfl
@[simp] theorem takeCode_phase (s : State) (c : Code) : (s.takeCode c).phase = s.phase := rfl
@[simp] theorem takeCode_cause (s : State) (c : Code) : (s.takeCode c).cause = s.cause := rfl
@[simp] theorem takeCode_selfref (s : State) (c : Code) : (s.takeCode c).selfref = s.selfref := rfl
@[simp] theorem takeCode_inLen (s : State) (c : Code) : (s.takeCode c).inLen = s.inLen := rfl
@[simp] theorem takeCode_nextCode (s : State) (c : Code) : (s.takeCode c).nextCode = s.nextCode := rfl
@[simp] theorem takeCode_codeCount (s : State) (c : Code) : (s.takeCode c).codeCount = s.codeCount + 1 := rfl
@[simp] theorem takeCode_byteCount (s : State) (c : Code) : (s.takeCode c).byteCount = s.byteCount := rfl
@[simp] theorem takeCode_faultInfo (s : State) (c : Code) : (s.takeCode c).faultInfo = s.faultInfo := rfl
@[simp] theorem takeCode_n (s : State) (c : Code) : (s.takeCode c).n = s.n := rfl
@[simp] theorem takeCode_i (s : State) (c : Code) : (s.takeCode c).i = s.i := rfl
@[simp] theorem takeCode_j (s : State) (c : Code) : (s.takeCode c).j = s.j := rfl
@[simp] theorem takeCode_p (s : State) (c : Code) : (s.takeCode c).p = s.p := rfl
@[simp] theorem takeCode_bestCode (s : State) (c : Code) : (s.takeCode c).bestCode = s.bestCode := rfl
@[simp] theorem takeCode_bestLen (s : State) (c : Code) : (s.takeCode c).bestLen = s.bestLen := rfl
@[simp] theorem takeCode_missNode (s : State) (c : Code) : (s.takeCode c).missNode = s.missNode := rfl
@[simp] theorem takeCode_missDir (s : State) (c : Code) : (s.takeCode c).missDir = s.missDir := rfl
@[simp] theorem takeCode_cur (s : State) (c : Code) : (s.takeCode c).cur = s.cur := rfl
@[simp] theorem takeCode_k (s : State) (c : Code) : (s.takeCode c).k = c := rfl
@[simp] theorem takeCode_nfirst (s : State) (c : Code) : (s.takeCode c).nfirst = s.nfirst := rfl
@[simp] theorem takeCode_sp (s : State) (c : Code) : (s.takeCode c).sp = s.sp := rfl
@[simp] theorem takeCode_inbuf (s : State) (c : Code) : (s.takeCode c).inbuf = s.inbuf := rfl
@[simp] theorem takeCode_node (s : State) (c : Code) : (s.takeCode c).node = s.node := rfl
@[simp] theorem takeCode_tab (s : State) (c : Code) : (s.takeCode c).tab = s.tab := rfl
@[simp] theorem takeCode_lifo (s : State) (c : Code) : (s.takeCode c).lifo = s.lifo := rfl
@[simp] theorem takeCode_source (s : State) (c : Code) : (s.takeCode c).source = s.source := rfl
@[simp] theorem takeCode_srcPos (s : State) (c : Code) : (s.takeCode c).srcPos = s.srcPos + 1 := rfl
@[simp] theorem takeCode_sink (s : State) (c : Code) : (s.takeCode c).sink = s.sink := rfl
@[simp] theorem takeCode_reads (s : State) (c : Code) : (s.takeCode c).reads = s.reads ++ [c] := rfl
@[simp] theorem takeCode_assigns (s : State) (c : Code) : (s.takeCode c).assigns = s.assigns := rfl
@[simp] theorem takeCode_replies (s : State) (c : Code) : (s.takeCode c).replies = s.replies := rfl
@[simp] theorem takeCode_turns (s : State) (c : Code) : (s.takeCode c).turns = s.turns := rfl
@[simp] theorem takeCode_draws (s : State) (c : Code) : (s.takeCode c).draws = s.draws := rfl
@[simp] theorem takeCode_epoch (s : State) (c : Code) : (s.takeCode c).epoch = s.epoch := rfl

/-! ## takeFault -/

@[simp] theorem takeFault_nMax (s : State) (c : Cause) (x : Code) : (s.takeFault c x).nMax = s.nMax := by
  unfold State.takeFault; split <;> rfl
@[simp] theorem takeFault_phase (s : State) (c : Cause) (x : Code) : (s.takeFault c x).phase = .fault := by
  unfold State.takeFault; split <;> rfl
@[simp] theorem takeFault_cause (s : State) (c : Cause) (x : Code) : (s.takeFault c x).cause = c := by
  unfold State.takeFault; split <;> rfl
@[simp] theorem takeFault_selfref (s : State) (c : Cause) (x : Code) : (s.takeFault c x).selfref = s.selfref := by
  unfold State.takeFault; split <;> rfl
@[simp] theorem takeFault_inLen (s : State) (c : Cause) (x : Code) : (s.takeFault c x).inLen = s.inLen := by
  unfold State.takeFault; split <;> rfl
@[simp] theorem takeFault_nextCode (s : State) (c : Cause) (x : Code) : (s.takeFault c x).nextCode = s.nextCode := by
  unfold State.takeFault; split <;> rfl
@[simp] theorem takeFault_codeCount (s : State) (c : Cause) (x : Code) : (s.takeFault c x).codeCount = s.codeCount := by
  unfold State.takeFault; split <;> rfl
@[simp] theorem takeFault_byteCount (s : State) (c : Cause) (x : Code) : (s.takeFault c x).byteCount = s.byteCount := by
  unfold State.takeFault; split <;> rfl
@[simp] theorem takeFault_faultInfo (s : State) (c : Cause) (x : Code) : (s.takeFault c x).faultInfo = x := by
  unfold State.takeFault; split <;> rfl
@[simp] theorem takeFault_n (s : State) (c : Cause) (x : Code) : (s.takeFault c x).n = s.n := by
  unfold State.takeFault; split <;> rfl
@[simp] theorem takeFault_i (s : State) (c : Cause) (x : Code) : (s.takeFault c x).i = s.i := by
  unfold State.takeFault; split <;> rfl
@[simp] theorem takeFault_j (s : State) (c : Cause) (x : Code) : (s.takeFault c x).j = s.j := by
  unfold State.takeFault; split <;> rfl
@[simp] theorem takeFault_p (s : State) (c : Cause) (x : Code) : (s.takeFault c x).p = s.p := by
  unfold State.takeFault; split <;> rfl
@[simp] theorem takeFault_bestCode (s : State) (c : Cause) (x : Code) : (s.takeFault c x).bestCode = s.bestCode := by
  unfold State.takeFault; split <;> rfl
@[simp] theorem takeFault_bestLen (s : State) (c : Cause) (x : Code) : (s.takeFault c x).bestLen = s.bestLen := by
  unfold State.takeFault; split <;> rfl
@[simp] theorem takeFault_missNode (s : State) (c : Cause) (x : Code) : (s.takeFault c x).missNode = s.missNode := by
  unfold State.takeFault; split <;> rfl
@[simp] theorem takeFault_missDir (s : State) (c : Cause) (x : Code) : (s.takeFault c x).missDir = s.missDir := by
  unfold State.takeFault; split <;> rfl
@[simp] theorem takeFault_cur (s : State) (c : Cause) (x : Code) : (s.takeFault c x).cur = s.cur := by
  unfold State.takeFault; split <;> rfl
@[simp] theorem takeFault_k (s : State) (c : Cause) (x : Code) : (s.takeFault c x).k = s.k := by
  unfold State.takeFault; split <;> rfl
@[simp] theorem takeFault_nfirst (s : State) (c : Cause) (x : Code) : (s.takeFault c x).nfirst = s.nfirst := by
  unfold State.takeFault; split <;> rfl
@[simp] theorem takeFault_sp (s : State) (c : Cause) (x : Code) : (s.takeFault c x).sp = s.sp := by
  unfold State.takeFault; split <;> rfl
@[simp] theorem takeFault_inbuf (s : State) (c : Cause) (x : Code) : (s.takeFault c x).inbuf = s.inbuf := by
  unfold State.takeFault; split <;> rfl
@[simp] theorem takeFault_node (s : State) (c : Cause) (x : Code) : (s.takeFault c x).node = s.node := by
  unfold State.takeFault; split <;> rfl
@[simp] theorem takeFault_tab (s : State) (c : Cause) (x : Code) : (s.takeFault c x).tab = s.tab := by
  unfold State.takeFault; split <;> rfl
@[simp] theorem takeFault_lifo (s : State) (c : Cause) (x : Code) : (s.takeFault c x).lifo = s.lifo := by
  unfold State.takeFault; split <;> rfl
@[simp] theorem takeFault_source (s : State) (c : Cause) (x : Code) : (s.takeFault c x).source = s.source := by
  unfold State.takeFault; split <;> rfl
@[simp] theorem takeFault_srcPos (s : State) (c : Cause) (x : Code) : (s.takeFault c x).srcPos = s.srcPos := by
  unfold State.takeFault; split <;> rfl
@[simp] theorem takeFault_sink (s : State) (c : Cause) (x : Code) : (s.takeFault c x).sink = if s.busy then s.sink ++ [.abort] else s.sink := by
  unfold State.takeFault; split <;> rfl
@[simp] theorem takeFault_reads (s : State) (c : Cause) (x : Code) : (s.takeFault c x).reads = s.reads := by
  unfold State.takeFault; split <;> rfl
@[simp] theorem takeFault_assigns (s : State) (c : Cause) (x : Code) : (s.takeFault c x).assigns = s.assigns := by
  unfold State.takeFault; split <;> rfl
@[simp] theorem takeFault_replies (s : State) (c : Cause) (x : Code) : (s.takeFault c x).replies = s.replies := by
  unfold State.takeFault; split <;> rfl
@[simp] theorem takeFault_turns (s : State) (c : Cause) (x : Code) : (s.takeFault c x).turns = s.turns := by
  unfold State.takeFault; split <;> rfl
@[simp] theorem takeFault_draws (s : State) (c : Cause) (x : Code) : (s.takeFault c x).draws = s.draws := by
  unfold State.takeFault; split <;> rfl
@[simp] theorem takeFault_epoch (s : State) (c : Cause) (x : Code) : (s.takeFault c x).epoch = s.epoch := by
  unfold State.takeFault; split <;> rfl

/-! ## acceptCmd -/

@[simp] theorem acceptCmd_nMax (s : State) : (s.acceptCmd).nMax = s.nMax := rfl
@[simp] theorem acceptCmd_phase (s : State) : (s.acceptCmd).phase = s.phase := rfl
@[simp] theorem acceptCmd_cause (s : State) : (s.acceptCmd).cause = .none := rfl
@[simp] theorem acceptCmd_selfref (s : State) : (s.acceptCmd).selfref = false := rfl
@[simp] theorem acceptCmd_inLen (s : State) : (s.acceptCmd).inLen = s.inLen := rfl
@[simp] theorem acceptCmd_nextCode (s : State) : (s.acceptCmd).nextCode = 0 := rfl
@[simp] theorem acceptCmd_codeCount (s : State) : (s.acceptCmd).codeCount = 0 := rfl
@[simp] theorem acceptCmd_byteCount (s : State) : (s.acceptCmd).byteCount = 0 := rfl
@[simp] theorem acceptCmd_faultInfo (s : State) : (s.acceptCmd).faultInfo = 0 := rfl
@[simp] theorem acceptCmd_n (s : State) : (s.acceptCmd).n = s.n := rfl
@[simp] theorem acceptCmd_i (s : State) : (s.acceptCmd).i = s.i := rfl
@[simp] theorem acceptCmd_j (s : State) : (s.acceptCmd).j = s.j := rfl
@[simp] theorem acceptCmd_p (s : State) : (s.acceptCmd).p = s.p := rfl
@[simp] theorem acceptCmd_bestCode (s : State) : (s.acceptCmd).bestCode = s.bestCode := rfl
@[simp] theorem acceptCmd_bestLen (s : State) : (s.acceptCmd).bestLen = s.bestLen := rfl
@[simp] theorem acceptCmd_missNode (s : State) : (s.acceptCmd).missNode = s.missNode := rfl
@[simp] theorem acceptCmd_missDir (s : State) : (s.acceptCmd).missDir = s.missDir := rfl
@[simp] theorem acceptCmd_cur (s : State) : (s.acceptCmd).cur = s.cur := rfl
@[simp] theorem acceptCmd_k (s : State) : (s.acceptCmd).k = s.k := rfl
@[simp] theorem acceptCmd_nfirst (s : State) : (s.acceptCmd).nfirst = s.nfirst := rfl
@[simp] theorem acceptCmd_sp (s : State) : (s.acceptCmd).sp = s.sp := rfl
@[simp] theorem acceptCmd_inbuf (s : State) : (s.acceptCmd).inbuf = s.inbuf := rfl
@[simp] theorem acceptCmd_node (s : State) : (s.acceptCmd).node = s.node := rfl
@[simp] theorem acceptCmd_tab (s : State) : (s.acceptCmd).tab = s.tab := rfl
@[simp] theorem acceptCmd_lifo (s : State) : (s.acceptCmd).lifo = s.lifo := rfl
@[simp] theorem acceptCmd_source (s : State) : (s.acceptCmd).source = s.source := rfl
@[simp] theorem acceptCmd_srcPos (s : State) : (s.acceptCmd).srcPos = s.srcPos := rfl
@[simp] theorem acceptCmd_sink (s : State) : (s.acceptCmd).sink = s.sink := rfl
@[simp] theorem acceptCmd_reads (s : State) : (s.acceptCmd).reads = s.reads := rfl
@[simp] theorem acceptCmd_assigns (s : State) : (s.acceptCmd).assigns = [] := rfl
@[simp] theorem acceptCmd_replies (s : State) : (s.acceptCmd).replies = s.replies := rfl
@[simp] theorem acceptCmd_turns (s : State) : (s.acceptCmd).turns = s.turns := rfl
@[simp] theorem acceptCmd_draws (s : State) : (s.acceptCmd).draws = s.draws := rfl
@[simp] theorem acceptCmd_epoch (s : State) : (s.acceptCmd).epoch = s.epoch := rfl

/-! ## assertReset -/

@[simp] theorem assertReset_nMax (s : State) : (s.assertReset).nMax = s.nMax := rfl
@[simp] theorem assertReset_phase (s : State) : (s.assertReset).phase = .idle := rfl
@[simp] theorem assertReset_cause (s : State) : (s.assertReset).cause = .none := rfl
@[simp] theorem assertReset_selfref (s : State) : (s.assertReset).selfref = false := rfl
@[simp] theorem assertReset_inLen (s : State) : (s.assertReset).inLen = 0 := rfl
@[simp] theorem assertReset_nextCode (s : State) : (s.assertReset).nextCode = 0 := rfl
@[simp] theorem assertReset_codeCount (s : State) : (s.assertReset).codeCount = 0 := rfl
@[simp] theorem assertReset_byteCount (s : State) : (s.assertReset).byteCount = 0 := rfl
@[simp] theorem assertReset_faultInfo (s : State) : (s.assertReset).faultInfo = 0 := rfl
@[simp] theorem assertReset_n (s : State) : (s.assertReset).n = 0 := rfl
@[simp] theorem assertReset_i (s : State) : (s.assertReset).i = 0 := rfl
@[simp] theorem assertReset_j (s : State) : (s.assertReset).j = 0 := rfl
@[simp] theorem assertReset_p (s : State) : (s.assertReset).p = 0 := rfl
@[simp] theorem assertReset_bestCode (s : State) : (s.assertReset).bestCode = 0 := rfl
@[simp] theorem assertReset_bestLen (s : State) : (s.assertReset).bestLen = 0 := rfl
@[simp] theorem assertReset_missNode (s : State) : (s.assertReset).missNode = 0 := rfl
@[simp] theorem assertReset_missDir (s : State) : (s.assertReset).missDir = .lo := rfl
@[simp] theorem assertReset_cur (s : State) : (s.assertReset).cur = 0 := rfl
@[simp] theorem assertReset_k (s : State) : (s.assertReset).k = 0 := rfl
@[simp] theorem assertReset_nfirst (s : State) : (s.assertReset).nfirst = 0 := rfl
@[simp] theorem assertReset_sp (s : State) : (s.assertReset).sp = 0 := rfl
@[simp] theorem assertReset_inbuf (s : State) : (s.assertReset).inbuf = [] := rfl
@[simp] theorem assertReset_node (s : State) : (s.assertReset).node = [] := rfl
@[simp] theorem assertReset_tab (s : State) : (s.assertReset).tab = [] := rfl
@[simp] theorem assertReset_lifo (s : State) : (s.assertReset).lifo = [] := rfl
@[simp] theorem assertReset_source (s : State) : (s.assertReset).source = s.source := rfl
@[simp] theorem assertReset_srcPos (s : State) : (s.assertReset).srcPos = s.srcPos := rfl
@[simp] theorem assertReset_sink (s : State) : (s.assertReset).sink = s.sink := rfl
@[simp] theorem assertReset_reads (s : State) : (s.assertReset).reads = s.reads := rfl
@[simp] theorem assertReset_assigns (s : State) : (s.assertReset).assigns = [] := rfl
@[simp] theorem assertReset_replies (s : State) : (s.assertReset).replies = s.replies := rfl
@[simp] theorem assertReset_turns (s : State) : (s.assertReset).turns = s.turns := rfl
@[simp] theorem assertReset_draws (s : State) : (s.assertReset).draws = s.draws := rfl
@[simp] theorem assertReset_epoch (s : State) : (s.assertReset).epoch = s.epoch + 1 := rfl

/-! ## trieSeed -/

@[simp] theorem trieSeed_nMax (s : State) : (s.trieSeed).nMax = s.nMax := rfl
@[simp] theorem trieSeed_phase (s : State) : (s.trieSeed).phase = s.phase := rfl
@[simp] theorem trieSeed_cause (s : State) : (s.trieSeed).cause = s.cause := rfl
@[simp] theorem trieSeed_selfref (s : State) : (s.trieSeed).selfref = s.selfref := rfl
@[simp] theorem trieSeed_inLen (s : State) : (s.trieSeed).inLen = s.inLen := rfl
@[simp] theorem trieSeed_nextCode (s : State) : (s.trieSeed).nextCode = s.nextCode := rfl
@[simp] theorem trieSeed_codeCount (s : State) : (s.trieSeed).codeCount = s.codeCount := rfl
@[simp] theorem trieSeed_byteCount (s : State) : (s.trieSeed).byteCount = s.byteCount := rfl
@[simp] theorem trieSeed_faultInfo (s : State) : (s.trieSeed).faultInfo = s.faultInfo := rfl
@[simp] theorem trieSeed_n (s : State) : (s.trieSeed).n = s.n := rfl
@[simp] theorem trieSeed_i (s : State) : (s.trieSeed).i = s.i := rfl
@[simp] theorem trieSeed_j (s : State) : (s.trieSeed).j = s.j := rfl
@[simp] theorem trieSeed_p (s : State) : (s.trieSeed).p = s.p := rfl
@[simp] theorem trieSeed_bestCode (s : State) : (s.trieSeed).bestCode = s.bestCode := rfl
@[simp] theorem trieSeed_bestLen (s : State) : (s.trieSeed).bestLen = s.bestLen := rfl
@[simp] theorem trieSeed_missNode (s : State) : (s.trieSeed).missNode = s.missNode := rfl
@[simp] theorem trieSeed_missDir (s : State) : (s.trieSeed).missDir = s.missDir := rfl
@[simp] theorem trieSeed_cur (s : State) : (s.trieSeed).cur = s.cur := rfl
@[simp] theorem trieSeed_k (s : State) : (s.trieSeed).k = s.k := rfl
@[simp] theorem trieSeed_nfirst (s : State) : (s.trieSeed).nfirst = s.nfirst := rfl
@[simp] theorem trieSeed_sp (s : State) : (s.trieSeed).sp = s.sp := rfl
@[simp] theorem trieSeed_inbuf (s : State) : (s.trieSeed).inbuf = s.inbuf := rfl
@[simp] theorem trieSeed_node (s : State) : (s.trieSeed).node = Memory.seed s.node 256 rootNode := rfl
@[simp] theorem trieSeed_tab (s : State) : (s.trieSeed).tab = s.tab := rfl
@[simp] theorem trieSeed_lifo (s : State) : (s.trieSeed).lifo = s.lifo := rfl
@[simp] theorem trieSeed_source (s : State) : (s.trieSeed).source = s.source := rfl
@[simp] theorem trieSeed_srcPos (s : State) : (s.trieSeed).srcPos = s.srcPos := rfl
@[simp] theorem trieSeed_sink (s : State) : (s.trieSeed).sink = s.sink := rfl
@[simp] theorem trieSeed_reads (s : State) : (s.trieSeed).reads = s.reads := rfl
@[simp] theorem trieSeed_assigns (s : State) : (s.trieSeed).assigns = s.assigns := rfl
@[simp] theorem trieSeed_replies (s : State) : (s.trieSeed).replies = s.replies := rfl
@[simp] theorem trieSeed_turns (s : State) : (s.trieSeed).turns = s.turns := rfl
@[simp] theorem trieSeed_draws (s : State) : (s.trieSeed).draws = s.draws := rfl
@[simp] theorem trieSeed_epoch (s : State) : (s.trieSeed).epoch = s.epoch := rfl

/-! ## tabSeed -/

@[simp] theorem tabSeed_nMax (s : State) : (s.tabSeed).nMax = s.nMax := rfl
@[simp] theorem tabSeed_phase (s : State) : (s.tabSeed).phase = s.phase := rfl
@[simp] theorem tabSeed_cause (s : State) : (s.tabSeed).cause = s.cause := rfl
@[simp] theorem tabSeed_selfref (s : State) : (s.tabSeed).selfref = s.selfref := rfl
@[simp] theorem tabSeed_inLen (s : State) : (s.tabSeed).inLen = s.inLen := rfl
@[simp] theorem tabSeed_nextCode (s : State) : (s.tabSeed).nextCode = s.nextCode := rfl
@[simp] theorem tabSeed_codeCount (s : State) : (s.tabSeed).codeCount = s.codeCount := rfl
@[simp] theorem tabSeed_byteCount (s : State) : (s.tabSeed).byteCount = s.byteCount := rfl
@[simp] theorem tabSeed_faultInfo (s : State) : (s.tabSeed).faultInfo = s.faultInfo := rfl
@[simp] theorem tabSeed_n (s : State) : (s.tabSeed).n = s.n := rfl
@[simp] theorem tabSeed_i (s : State) : (s.tabSeed).i = s.i := rfl
@[simp] theorem tabSeed_j (s : State) : (s.tabSeed).j = s.j := rfl
@[simp] theorem tabSeed_p (s : State) : (s.tabSeed).p = s.p := rfl
@[simp] theorem tabSeed_bestCode (s : State) : (s.tabSeed).bestCode = s.bestCode := rfl
@[simp] theorem tabSeed_bestLen (s : State) : (s.tabSeed).bestLen = s.bestLen := rfl
@[simp] theorem tabSeed_missNode (s : State) : (s.tabSeed).missNode = s.missNode := rfl
@[simp] theorem tabSeed_missDir (s : State) : (s.tabSeed).missDir = s.missDir := rfl
@[simp] theorem tabSeed_cur (s : State) : (s.tabSeed).cur = s.cur := rfl
@[simp] theorem tabSeed_k (s : State) : (s.tabSeed).k = s.k := rfl
@[simp] theorem tabSeed_nfirst (s : State) : (s.tabSeed).nfirst = s.nfirst := rfl
@[simp] theorem tabSeed_sp (s : State) : (s.tabSeed).sp = s.sp := rfl
@[simp] theorem tabSeed_inbuf (s : State) : (s.tabSeed).inbuf = s.inbuf := rfl
@[simp] theorem tabSeed_node (s : State) : (s.tabSeed).node = s.node := rfl
@[simp] theorem tabSeed_tab (s : State) : (s.tabSeed).tab = Memory.seed s.tab 256 seedEntry := rfl
@[simp] theorem tabSeed_lifo (s : State) : (s.tabSeed).lifo = s.lifo := rfl
@[simp] theorem tabSeed_source (s : State) : (s.tabSeed).source = s.source := rfl
@[simp] theorem tabSeed_srcPos (s : State) : (s.tabSeed).srcPos = s.srcPos := rfl
@[simp] theorem tabSeed_sink (s : State) : (s.tabSeed).sink = s.sink := rfl
@[simp] theorem tabSeed_reads (s : State) : (s.tabSeed).reads = s.reads := rfl
@[simp] theorem tabSeed_assigns (s : State) : (s.tabSeed).assigns = s.assigns := rfl
@[simp] theorem tabSeed_replies (s : State) : (s.tabSeed).replies = s.replies := rfl
@[simp] theorem tabSeed_turns (s : State) : (s.tabSeed).turns = s.turns := rfl
@[simp] theorem tabSeed_draws (s : State) : (s.tabSeed).draws = s.draws := rfl
@[simp] theorem tabSeed_epoch (s : State) : (s.tabSeed).epoch = s.epoch := rfl

/-! ## walkStart -/

@[simp] theorem walkStart_nMax (s : State) (b : Byte) : (s.walkStart b).nMax = s.nMax := rfl
@[simp] theorem walkStart_phase (s : State) (b : Byte) : (s.walkStart b).phase = s.phase := rfl
@[simp] theorem walkStart_cause (s : State) (b : Byte) : (s.walkStart b).cause = s.cause := rfl
@[simp] theorem walkStart_selfref (s : State) (b : Byte) : (s.walkStart b).selfref = s.selfref := rfl
@[simp] theorem walkStart_inLen (s : State) (b : Byte) : (s.walkStart b).inLen = s.inLen := rfl
@[simp] theorem walkStart_nextCode (s : State) (b : Byte) : (s.walkStart b).nextCode = s.nextCode := rfl
@[simp] theorem walkStart_codeCount (s : State) (b : Byte) : (s.walkStart b).codeCount = s.codeCount := rfl
@[simp] theorem walkStart_byteCount (s : State) (b : Byte) : (s.walkStart b).byteCount = s.byteCount := rfl
@[simp] theorem walkStart_faultInfo (s : State) (b : Byte) : (s.walkStart b).faultInfo = s.faultInfo := rfl
@[simp] theorem walkStart_n (s : State) (b : Byte) : (s.walkStart b).n = s.n := rfl
@[simp] theorem walkStart_i (s : State) (b : Byte) : (s.walkStart b).i = s.i := rfl
@[simp] theorem walkStart_j (s : State) (b : Byte) : (s.walkStart b).j = s.i + 1 := rfl
@[simp] theorem walkStart_p (s : State) (b : Byte) : (s.walkStart b).p = (s.nodeAt (byteCode b)).eq := rfl
@[simp] theorem walkStart_bestCode (s : State) (b : Byte) : (s.walkStart b).bestCode = (s.nodeAt (byteCode b)).code := rfl
@[simp] theorem walkStart_bestLen (s : State) (b : Byte) : (s.walkStart b).bestLen = 1 := rfl
@[simp] theorem walkStart_missNode (s : State) (b : Byte) : (s.walkStart b).missNode = byteCode b := rfl
@[simp] theorem walkStart_missDir (s : State) (b : Byte) : (s.walkStart b).missDir = .eq := rfl
@[simp] theorem walkStart_cur (s : State) (b : Byte) : (s.walkStart b).cur = s.cur := rfl
@[simp] theorem walkStart_k (s : State) (b : Byte) : (s.walkStart b).k = s.k := rfl
@[simp] theorem walkStart_nfirst (s : State) (b : Byte) : (s.walkStart b).nfirst = s.nfirst := rfl
@[simp] theorem walkStart_sp (s : State) (b : Byte) : (s.walkStart b).sp = s.sp := rfl
@[simp] theorem walkStart_inbuf (s : State) (b : Byte) : (s.walkStart b).inbuf = s.inbuf := rfl
@[simp] theorem walkStart_node (s : State) (b : Byte) : (s.walkStart b).node = s.node := rfl
@[simp] theorem walkStart_tab (s : State) (b : Byte) : (s.walkStart b).tab = s.tab := rfl
@[simp] theorem walkStart_lifo (s : State) (b : Byte) : (s.walkStart b).lifo = s.lifo := rfl
@[simp] theorem walkStart_source (s : State) (b : Byte) : (s.walkStart b).source = s.source := rfl
@[simp] theorem walkStart_srcPos (s : State) (b : Byte) : (s.walkStart b).srcPos = s.srcPos := rfl
@[simp] theorem walkStart_sink (s : State) (b : Byte) : (s.walkStart b).sink = s.sink := rfl
@[simp] theorem walkStart_reads (s : State) (b : Byte) : (s.walkStart b).reads = s.reads := rfl
@[simp] theorem walkStart_assigns (s : State) (b : Byte) : (s.walkStart b).assigns = s.assigns := rfl
@[simp] theorem walkStart_replies (s : State) (b : Byte) : (s.walkStart b).replies = s.replies := rfl
@[simp] theorem walkStart_turns (s : State) (b : Byte) : (s.walkStart b).turns = s.turns := rfl
@[simp] theorem walkStart_draws (s : State) (b : Byte) : (s.walkStart b).draws = s.draws := rfl
@[simp] theorem walkStart_epoch (s : State) (b : Byte) : (s.walkStart b).epoch = s.epoch := rfl

/-! ## walkVisit: the fields it never changes, and MISS_NODE -/

@[simp] theorem walkVisit_nMax (s : State) (b : Byte) : (s.walkVisit b).nMax = s.nMax := by
  unfold State.walkVisit; dsimp only; split_ifs <;> rfl
@[simp] theorem walkVisit_phase (s : State) (b : Byte) : (s.walkVisit b).phase = s.phase := by
  unfold State.walkVisit; dsimp only; split_ifs <;> rfl
@[simp] theorem walkVisit_cause (s : State) (b : Byte) : (s.walkVisit b).cause = s.cause := by
  unfold State.walkVisit; dsimp only; split_ifs <;> rfl
@[simp] theorem walkVisit_selfref (s : State) (b : Byte) : (s.walkVisit b).selfref = s.selfref := by
  unfold State.walkVisit; dsimp only; split_ifs <;> rfl
@[simp] theorem walkVisit_inLen (s : State) (b : Byte) : (s.walkVisit b).inLen = s.inLen := by
  unfold State.walkVisit; dsimp only; split_ifs <;> rfl
@[simp] theorem walkVisit_nextCode (s : State) (b : Byte) : (s.walkVisit b).nextCode = s.nextCode := by
  unfold State.walkVisit; dsimp only; split_ifs <;> rfl
@[simp] theorem walkVisit_codeCount (s : State) (b : Byte) : (s.walkVisit b).codeCount = s.codeCount := by
  unfold State.walkVisit; dsimp only; split_ifs <;> rfl
@[simp] theorem walkVisit_byteCount (s : State) (b : Byte) : (s.walkVisit b).byteCount = s.byteCount := by
  unfold State.walkVisit; dsimp only; split_ifs <;> rfl
@[simp] theorem walkVisit_faultInfo (s : State) (b : Byte) : (s.walkVisit b).faultInfo = s.faultInfo := by
  unfold State.walkVisit; dsimp only; split_ifs <;> rfl
@[simp] theorem walkVisit_n (s : State) (b : Byte) : (s.walkVisit b).n = s.n := by
  unfold State.walkVisit; dsimp only; split_ifs <;> rfl
@[simp] theorem walkVisit_i (s : State) (b : Byte) : (s.walkVisit b).i = s.i := by
  unfold State.walkVisit; dsimp only; split_ifs <;> rfl
@[simp] theorem walkVisit_missNode (s : State) (b : Byte) : (s.walkVisit b).missNode = s.p := by
  unfold State.walkVisit; dsimp only; split_ifs <;> rfl
@[simp] theorem walkVisit_cur (s : State) (b : Byte) : (s.walkVisit b).cur = s.cur := by
  unfold State.walkVisit; dsimp only; split_ifs <;> rfl
@[simp] theorem walkVisit_k (s : State) (b : Byte) : (s.walkVisit b).k = s.k := by
  unfold State.walkVisit; dsimp only; split_ifs <;> rfl
@[simp] theorem walkVisit_nfirst (s : State) (b : Byte) : (s.walkVisit b).nfirst = s.nfirst := by
  unfold State.walkVisit; dsimp only; split_ifs <;> rfl
@[simp] theorem walkVisit_sp (s : State) (b : Byte) : (s.walkVisit b).sp = s.sp := by
  unfold State.walkVisit; dsimp only; split_ifs <;> rfl
@[simp] theorem walkVisit_inbuf (s : State) (b : Byte) : (s.walkVisit b).inbuf = s.inbuf := by
  unfold State.walkVisit; dsimp only; split_ifs <;> rfl
@[simp] theorem walkVisit_node (s : State) (b : Byte) : (s.walkVisit b).node = s.node := by
  unfold State.walkVisit; dsimp only; split_ifs <;> rfl
@[simp] theorem walkVisit_tab (s : State) (b : Byte) : (s.walkVisit b).tab = s.tab := by
  unfold State.walkVisit; dsimp only; split_ifs <;> rfl
@[simp] theorem walkVisit_lifo (s : State) (b : Byte) : (s.walkVisit b).lifo = s.lifo := by
  unfold State.walkVisit; dsimp only; split_ifs <;> rfl
@[simp] theorem walkVisit_source (s : State) (b : Byte) : (s.walkVisit b).source = s.source := by
  unfold State.walkVisit; dsimp only; split_ifs <;> rfl
@[simp] theorem walkVisit_srcPos (s : State) (b : Byte) : (s.walkVisit b).srcPos = s.srcPos := by
  unfold State.walkVisit; dsimp only; split_ifs <;> rfl
@[simp] theorem walkVisit_sink (s : State) (b : Byte) : (s.walkVisit b).sink = s.sink := by
  unfold State.walkVisit; dsimp only; split_ifs <;> rfl
@[simp] theorem walkVisit_reads (s : State) (b : Byte) : (s.walkVisit b).reads = s.reads := by
  unfold State.walkVisit; dsimp only; split_ifs <;> rfl
@[simp] theorem walkVisit_assigns (s : State) (b : Byte) : (s.walkVisit b).assigns = s.assigns := by
  unfold State.walkVisit; dsimp only; split_ifs <;> rfl
@[simp] theorem walkVisit_replies (s : State) (b : Byte) : (s.walkVisit b).replies = s.replies := by
  unfold State.walkVisit; dsimp only; split_ifs <;> rfl
@[simp] theorem walkVisit_turns (s : State) (b : Byte) : (s.walkVisit b).turns = s.turns := by
  unfold State.walkVisit; dsimp only; split_ifs <;> rfl
@[simp] theorem walkVisit_draws (s : State) (b : Byte) : (s.walkVisit b).draws = s.draws := by
  unfold State.walkVisit; dsimp only; split_ifs <;> rfl
@[simp] theorem walkVisit_epoch (s : State) (b : Byte) : (s.walkVisit b).epoch = s.epoch := by
  unfold State.walkVisit; dsimp only; split_ifs <;> rfl

/-! ## trieInsert -/

@[simp] theorem trieInsert_nMax (s : State) (b : Byte) : (s.trieInsert b).nMax = s.nMax := rfl
@[simp] theorem trieInsert_phase (s : State) (b : Byte) : (s.trieInsert b).phase = s.phase := rfl
@[simp] theorem trieInsert_cause (s : State) (b : Byte) : (s.trieInsert b).cause = s.cause := rfl
@[simp] theorem trieInsert_selfref (s : State) (b : Byte) : (s.trieInsert b).selfref = s.selfref := rfl
@[simp] theorem trieInsert_inLen (s : State) (b : Byte) : (s.trieInsert b).inLen = s.inLen := rfl
@[simp] theorem trieInsert_nextCode (s : State) (b : Byte) : (s.trieInsert b).nextCode = s.nextCode + 1 := rfl
@[simp] theorem trieInsert_codeCount (s : State) (b : Byte) : (s.trieInsert b).codeCount = s.codeCount := rfl
@[simp] theorem trieInsert_byteCount (s : State) (b : Byte) : (s.trieInsert b).byteCount = s.byteCount := rfl
@[simp] theorem trieInsert_faultInfo (s : State) (b : Byte) : (s.trieInsert b).faultInfo = s.faultInfo := rfl
@[simp] theorem trieInsert_n (s : State) (b : Byte) : (s.trieInsert b).n = s.n := rfl
@[simp] theorem trieInsert_i (s : State) (b : Byte) : (s.trieInsert b).i = s.i := rfl
@[simp] theorem trieInsert_j (s : State) (b : Byte) : (s.trieInsert b).j = s.j := rfl
@[simp] theorem trieInsert_p (s : State) (b : Byte) : (s.trieInsert b).p = s.p := rfl
@[simp] theorem trieInsert_bestCode (s : State) (b : Byte) : (s.trieInsert b).bestCode = s.bestCode := rfl
@[simp] theorem trieInsert_bestLen (s : State) (b : Byte) : (s.trieInsert b).bestLen = s.bestLen := rfl
@[simp] theorem trieInsert_missNode (s : State) (b : Byte) : (s.trieInsert b).missNode = s.missNode := rfl
@[simp] theorem trieInsert_missDir (s : State) (b : Byte) : (s.trieInsert b).missDir = s.missDir := rfl
@[simp] theorem trieInsert_cur (s : State) (b : Byte) : (s.trieInsert b).cur = s.cur := rfl
@[simp] theorem trieInsert_k (s : State) (b : Byte) : (s.trieInsert b).k = s.k := rfl
@[simp] theorem trieInsert_nfirst (s : State) (b : Byte) : (s.trieInsert b).nfirst = s.nfirst := rfl
@[simp] theorem trieInsert_sp (s : State) (b : Byte) : (s.trieInsert b).sp = s.sp := rfl
@[simp] theorem trieInsert_inbuf (s : State) (b : Byte) : (s.trieInsert b).inbuf = s.inbuf := rfl
@[simp] theorem trieInsert_tab (s : State) (b : Byte) : (s.trieInsert b).tab = s.tab := rfl
@[simp] theorem trieInsert_lifo (s : State) (b : Byte) : (s.trieInsert b).lifo = s.lifo := rfl
@[simp] theorem trieInsert_source (s : State) (b : Byte) : (s.trieInsert b).source = s.source := rfl
@[simp] theorem trieInsert_srcPos (s : State) (b : Byte) : (s.trieInsert b).srcPos = s.srcPos := rfl
@[simp] theorem trieInsert_sink (s : State) (b : Byte) : (s.trieInsert b).sink = s.sink := rfl
@[simp] theorem trieInsert_reads (s : State) (b : Byte) : (s.trieInsert b).reads = s.reads := rfl
@[simp] theorem trieInsert_assigns (s : State) (b : Byte) : (s.trieInsert b).assigns = s.assigns ++ [(codeOfCounter s.nextCode, s.inbufSlice s.i (s.bestLen.toNat + 1))] := rfl
@[simp] theorem trieInsert_replies (s : State) (b : Byte) : (s.trieInsert b).replies = s.replies := rfl
@[simp] theorem trieInsert_turns (s : State) (b : Byte) : (s.trieInsert b).turns = s.turns := rfl
@[simp] theorem trieInsert_draws (s : State) (b : Byte) : (s.trieInsert b).draws = s.draws := rfl
@[simp] theorem trieInsert_epoch (s : State) (b : Byte) : (s.trieInsert b).epoch = s.epoch := rfl

/-! ## tabAppend -/

@[simp] theorem tabAppend_nMax (s : State) : (s.tabAppend).nMax = s.nMax := rfl
@[simp] theorem tabAppend_phase (s : State) : (s.tabAppend).phase = s.phase := rfl
@[simp] theorem tabAppend_cause (s : State) : (s.tabAppend).cause = s.cause := rfl
@[simp] theorem tabAppend_selfref (s : State) : (s.tabAppend).selfref = s.selfref := rfl
@[simp] theorem tabAppend_inLen (s : State) : (s.tabAppend).inLen = s.inLen := rfl
@[simp] theorem tabAppend_nextCode (s : State) : (s.tabAppend).nextCode = s.nextCode + 1 := rfl
@[simp] theorem tabAppend_codeCount (s : State) : (s.tabAppend).codeCount = s.codeCount := rfl
@[simp] theorem tabAppend_byteCount (s : State) : (s.tabAppend).byteCount = s.byteCount := rfl
@[simp] theorem tabAppend_faultInfo (s : State) : (s.tabAppend).faultInfo = s.faultInfo := rfl
@[simp] theorem tabAppend_n (s : State) : (s.tabAppend).n = s.n := rfl
@[simp] theorem tabAppend_i (s : State) : (s.tabAppend).i = s.i := rfl
@[simp] theorem tabAppend_j (s : State) : (s.tabAppend).j = s.j := rfl
@[simp] theorem tabAppend_p (s : State) : (s.tabAppend).p = s.p := rfl
@[simp] theorem tabAppend_bestCode (s : State) : (s.tabAppend).bestCode = s.bestCode := rfl
@[simp] theorem tabAppend_bestLen (s : State) : (s.tabAppend).bestLen = s.bestLen := rfl
@[simp] theorem tabAppend_missNode (s : State) : (s.tabAppend).missNode = s.missNode := rfl
@[simp] theorem tabAppend_missDir (s : State) : (s.tabAppend).missDir = s.missDir := rfl
@[simp] theorem tabAppend_cur (s : State) : (s.tabAppend).cur = s.cur := rfl
@[simp] theorem tabAppend_k (s : State) : (s.tabAppend).k = s.k := rfl
@[simp] theorem tabAppend_nfirst (s : State) : (s.tabAppend).nfirst = s.nfirst := rfl
@[simp] theorem tabAppend_sp (s : State) : (s.tabAppend).sp = s.sp := rfl
@[simp] theorem tabAppend_inbuf (s : State) : (s.tabAppend).inbuf = s.inbuf := rfl
@[simp] theorem tabAppend_node (s : State) : (s.tabAppend).node = s.node := rfl
@[simp] theorem tabAppend_lifo (s : State) : (s.tabAppend).lifo = s.lifo := rfl
@[simp] theorem tabAppend_source (s : State) : (s.tabAppend).source = s.source := rfl
@[simp] theorem tabAppend_srcPos (s : State) : (s.tabAppend).srcPos = s.srcPos := rfl
@[simp] theorem tabAppend_sink (s : State) : (s.tabAppend).sink = s.sink := rfl
@[simp] theorem tabAppend_reads (s : State) : (s.tabAppend).reads = s.reads := rfl
@[simp] theorem tabAppend_assigns (s : State) : (s.tabAppend).assigns = s.assigns ++ [(codeOfCounter s.nextCode, s.seqOf s.cur ++ [s.nfirst])] := rfl
@[simp] theorem tabAppend_replies (s : State) : (s.tabAppend).replies = s.replies := rfl
@[simp] theorem tabAppend_turns (s : State) : (s.tabAppend).turns = s.turns := rfl
@[simp] theorem tabAppend_draws (s : State) : (s.tabAppend).draws = s.draws := rfl
@[simp] theorem tabAppend_epoch (s : State) : (s.tabAppend).epoch = s.epoch := rfl

end Sys2Proof.Machine
end

