-- ==== Sys2Proof/Laws/Memory.lean ====
section
/-! SUPPORT. The laws of the memories: what a read gives after a write or a seeding, and that every
memory operation keeps the canonical form. -/

namespace Sys2Proof.Machine

variable {α : Type}

@[simp] theorem Memory.read_nil (a : Nat) : Memory.read ([] : Memory α) a = none := rfl

theorem Memory.read_cons (x : Nat × α) (m : Memory α) (a : Nat) :
    Memory.read (x :: m) a = if a = x.1 then some x.2 else Memory.read m a := rfl

/-- The byte written is read back; every other address reads as before (20_memory R72). -/
theorem Memory.read_write (m : Memory α) (a : Nat) (v : α) (b : Nat) :
    Memory.read (Memory.write m a v) b = if b = a then some v else Memory.read m b := by
  induction m with
  | nil => rfl
  | cons x m ih =>
    obtain ⟨c, w⟩ := x
    unfold Memory.write
    split
    · rfl
    · split
      · subst_vars; by_cases h : b = c <;> simp [Memory.read_cons, h]
      · by_cases h : b = c
        · have : b ≠ a := by omega
          subst h; simp [Memory.read_cons, this]
        · simp [Memory.read_cons, h, ih]

theorem Memory.wf_iff (size : Nat) (m : Memory α) :
    Memory.wf size m = true ↔ (m.Pairwise fun x y => x.1 < y.1) ∧ ∀ x ∈ m, x.1 < size := by
  simp [Memory.wf, List.all_eq_true]

theorem Memory.mem_write {m : Memory α} {a : Nat} {v : α} {x : Nat × α}
    (h : x ∈ Memory.write m a v) : x = (a, v) ∨ x ∈ m := by
  induction m with
  | nil => simpa [Memory.write] using h
  | cons y m ih =>
    unfold Memory.write at h
    split at h
    · simpa using h
    · split at h
      · rcases List.mem_cons.1 h with h | h
        · exact .inl h
        · exact .inr (List.mem_cons_of_mem _ h)
      · rcases List.mem_cons.1 h with h | h
        · exact .inr (h ▸ List.mem_cons_self)
        · exact (ih h).imp id (List.mem_cons_of_mem _)

/-- A write inside the address range keeps the canonical form. -/
theorem Memory.wf_write {size : Nat} {m : Memory α} (hm : Memory.wf size m = true) {a : Nat}
    (ha : a < size) (v : α) : Memory.wf size (Memory.write m a v) = true := by
  rw [Memory.wf_iff] at hm ⊢
  refine ⟨?_, fun x hx => (Memory.mem_write hx).elim (fun h => h ▸ ha) (hm.2 x)⟩
  replace hm := hm.1
  induction m with
  | nil => simp [Memory.write]
  | cons y m ih =>
    obtain ⟨hy, hm⟩ := List.pairwise_cons.1 hm
    unfold Memory.write
    split
    · next h =>
      refine List.pairwise_cons.2 ⟨fun x hx => ?_, List.pairwise_cons.2 ⟨hy, hm⟩⟩
      rcases List.mem_cons.1 hx with hx | hx
      · subst hx; exact h
      · exact lt_trans h (hy x hx)
    · split
      · next h => exact List.pairwise_cons.2 ⟨fun x hx => by simpa [h] using hy x hx, hm⟩
      · next h1 h2 =>
        refine List.pairwise_cons.2 ⟨fun x hx => ?_, ih hm⟩
        rcases Memory.mem_write hx with hx | hx
        · subst hx; simp only; omega
        · exact hy x hx

/-- Seeding keeps the canonical form. -/
theorem Memory.wf_seed {size : Nat} {m : Memory α} (hm : Memory.wf size m = true) {k : Nat}
    (hk : k ≤ size) (f : Nat → α) : Memory.wf size (Memory.seed m k f) = true := by
  rw [Memory.wf_iff] at hm ⊢
  refine ⟨List.pairwise_append.2 ⟨?_, hm.1.filter _, ?_⟩, ?_⟩
  · exact List.pairwise_map.2 (by simpa using List.pairwise_lt_range)
  · intro x hx y hy
    simp only [List.mem_map, List.mem_range, List.mem_filter, decide_eq_true_eq] at hx hy
    obtain ⟨a, ha, rfl⟩ := hx
    exact lt_of_lt_of_le ha hy.2
  · intro x hx
    simp only [Memory.seed, List.mem_append, List.mem_map, List.mem_range, List.mem_filter] at hx
    rcases hx with ⟨a, ha, rfl⟩ | hx
    · exact lt_of_lt_of_le ha hk
    · exact hm.2 x hx.1

theorem Memory.read_append (m m' : Memory α) (a : Nat) :
    Memory.read (m ++ m') a = (Memory.read m a).or (Memory.read m' a) := by
  induction m with
  | nil => rfl
  | cons x m ih => by_cases h : a = x.1 <;> simp [Memory.read_cons, h, ih]

theorem Memory.read_map_range (k : Nat) (f : Nat → α) (a : Nat) :
    Memory.read ((List.range k).map fun b => (b, f b)) a = if a < k then some (f a) else none := by
  induction k with
  | zero => rfl
  | succ k ih =>
    rw [List.range_succ, List.map_append, Memory.read_append, ih]
    rcases Nat.lt_trichotomy a k with h | h | h
    · simp [h, Nat.lt_succ_of_lt h]
    · subst h; simp [Memory.read_cons]
    · simp [Memory.read_cons, Nat.not_lt.2 (le_of_lt h), Nat.ne_of_gt h]; omega

theorem Memory.read_filter (m : Memory α) (k a : Nat) (h : k ≤ a) :
    Memory.read (m.filter fun x => decide (k ≤ x.1)) a = Memory.read m a := by
  induction m with
  | nil => rfl
  | cons x m ih =>
    by_cases hx : k ≤ x.1
    · simp [hx, Memory.read_cons, ih]
    · have : a ≠ x.1 := by omega
      simp [hx, Memory.read_cons, ih, this]

/-- After seeding, the first `k` addresses hold the seed, and every other one what it held. -/
theorem Memory.read_seed (m : Memory α) (k : Nat) (f : Nat → α) (a : Nat) :
    Memory.read (Memory.seed m k f) a = if a < k then some (f a) else Memory.read m a := by
  unfold Memory.seed
  rw [Memory.read_append, Memory.read_map_range]
  by_cases h : a < k
  · simp [h]
  · simp [h, Memory.read_filter m k a (Nat.not_lt.1 h)]

@[simp] theorem Memory.wf_nil (size : Nat) : Memory.wf size ([] : Memory α) = true := rfl

end Sys2Proof.Machine
end

