-- ==== Sys2Proof/Laws/Ops.lean ====
section
/-! SUPPORT. One law per shared operation: what the node, table and INBUF reads give after each
operation, what makes two states read alike, and the words of the codes. -/

namespace Sys2Proof.Machine

/-! ## Codes as numbers -/

@[simp] theorem eos_toNat : Config.eos.toNat = 256 := rfl

@[simp] theorem nil_toNat : Config.nil.toNat = 256 := rfl

@[simp] theorem limit_toNat : Config.limit.toNat = 4096 := rfl

@[simp] theorem firstFree_toNat : Config.firstFree.toNat = 257 := rfl

theorem nil_eq_eos : Config.nil = Config.eos := rfl

theorem ne_eos_iff (k : Code) : k ≠ Config.eos ↔ k.toNat ≠ 256 := by
  rw [Ne, ← BitVec.toNat_inj]; simp

@[simp] theorem byteCode_toNat (b : Byte) : (byteCode b).toNat = b.toNat := by
  simp only [byteCode, BitVec.toNat_setWidth]; have := b.isLt; omega

@[simp] theorem litByte_toNat (k : Code) : (litByte k).toNat = k.toNat % 256 := by
  simp [litByte]

theorem codeOfCounter_toNat {nc : Counter} (h : nc.toNat < 4096) :
    (codeOfCounter nc).toNat = nc.toNat := by
  simp only [codeOfCounter, BitVec.toNat_setWidth]; omega

theorem byteCode_ne_eos (b : Byte) : byteCode b ≠ Config.eos := by
  rw [ne_eos_iff, byteCode_toNat]; have := b.isLt; omega

theorem lt_limit_iff (nc : Counter) : nc < Config.limit ↔ nc.toNat < 4096 := by
  simp [BitVec.lt_def]

theorem counter_succ {nc : Counter} (h : nc.toNat < 4096) : (nc + 1).toNat = nc.toNat + 1 := by
  have h1 : (1 : Counter).toNat = 1 := rfl
  rw [BitVec.toNat_add, h1]; omega

/-! ## Reading alike -/

theorem nodeAt_congr {s t : State} (hn : t.node = s.node) (he : t.epoch = s.epoch) (p : Code) :
    t.nodeAt p = s.nodeAt p := by
  simp only [State.nodeAt, hn, he]

theorem tabAt_congr {s t : State} (hn : t.tab = s.tab) (he : t.epoch = s.epoch) (k : Code) :
    t.tabAt k = s.tabAt k := by
  simp only [State.tabAt, hn, he]

theorem inbufByte_congr {s t : State} (hn : t.inbuf = s.inbuf) (he : t.epoch = s.epoch) (a : Word) :
    t.inbufByte a = s.inbufByte a := by
  simp only [State.inbufByte, hn, he]

theorem chainSeq_congr {s t : State} (h : ∀ k, t.tabAt k = s.tabAt k) (fuel : Nat) (k : Code) :
    t.chainSeq fuel k = s.chainSeq fuel k := by
  induction fuel generalizing k with
  | zero => rfl
  | succ f ih => simp only [State.chainSeq, h, ih]

/-! ## The trie arena -/

/-- After TRIE_SEED the nodes 0..255 are the roots and every other node is what it was (R113). -/
theorem nodeAt_trieSeed (s : State) (k : Code) :
    s.trieSeed.nodeAt k = if k.toNat < 256 then rootNode k.toNat else s.nodeAt k := by
  by_cases h : k.toNat < 256 <;>
    simp [State.nodeAt, Memory.read_seed, h]

/-- The arena after TRIE_INSERT at a miss node other than the new one (R117). -/
theorem nodeAt_trieInsert (s : State) (b : Byte) (q : Code)
    (hm : s.missNode ≠ codeOfCounter s.nextCode) :
    (s.trieInsert b).nodeAt q =
      if q = s.missNode then setLink (s.nodeAt s.missNode) s.missDir (codeOfCounter s.nextCode)
      else if q = codeOfCounter s.nextCode then newNode b (codeOfCounter s.nextCode)
      else s.nodeAt q := by
  simp only [State.nodeAt, State.trieInsert, Memory.read_write, BitVec.toNat_inj, if_neg hm]
  split
  · rfl
  · split <;> rfl

theorem linkOf_setLink (m : Node) (d d' : Dir) (k : Code) :
    linkOf (setLink m d k) d' = if d' = d then k else linkOf m d' := by
  cases d <;> cases d' <;> rfl

@[simp] theorem setLink_c (m : Node) (d : Dir) (k : Code) : (setLink m d k).c = m.c := by
  cases d <;> rfl

@[simp] theorem setLink_term (m : Node) (d : Dir) (k : Code) : (setLink m d k).term = m.term := by
  cases d <;> rfl

@[simp] theorem setLink_code (m : Node) (d : Dir) (k : Code) : (setLink m d k).code = m.code := by
  cases d <;> rfl

/-! ## The code table -/

/-- After TAB_SEED the entries 0..255 are the bytes and every other entry is what it was (R137). -/
theorem tabAt_tabSeed (s : State) (k : Code) :
    s.tabSeed.tabAt k = if k.toNat < 256 then seedEntry k.toNat else s.tabAt k := by
  by_cases h : k.toNat < 256 <;>
    simp [State.tabAt, Memory.read_seed, h]

/-- The table after TAB_APPEND (R138). -/
theorem tabAt_tabAppend (s : State) (q : Code) :
    s.tabAppend.tabAt q =
      if q = codeOfCounter s.nextCode then
        { pre := s.cur, suffix := s.nfirst, first := (s.tabAt s.cur).first
          len := (s.tabAt s.cur).len + 1 }
      else s.tabAt q := by
  simp only [State.tabAt, State.tabAppend, Memory.read_write, BitVec.toNat_inj]
  split <;> rfl

/-! ## Faults and contexts -/

/-- A meaning of a code-word row answers a next state exactly in its context. -/
theorem inContext_next {ok : Bool} {t u : State} :
    inContext ok t = .next u ↔ ok = true ∧ t = u := by
  cases ok <;> simp [inContext]

theorem inContext_ne_refused {ok : Bool} {t : State} {r : Refusal} :
    inContext ok t ≠ .refused r := by
  cases ok <;> simp [inContext]

/-- Fault entry of a run in progress delivers Abort first (R252). -/
theorem takeFault_busy {s : State} (h : s.busy = true) (c : Cause) (x : Code) :
    s.takeFault c x =
      { s with sink := s.sink ++ [.abort], cause := c, faultInfo := x, phase := .fault } := by
  simp [State.takeFault, h, State.emit]

/-- Fault entry with no run in progress delivers nothing (R252). -/
theorem takeFault_quiet {s : State} (h : s.busy = false) (c : Cause) (x : Code) :
    s.takeFault c x = { s with cause := c, faultInfo := x, phase := .fault } := by
  simp [State.takeFault, h]

/-! ## Modes -/

@[simp] theorem busy_acceptCmd (s : State) : s.acceptCmd.busy = s.busy := rfl

@[simp] theorem busy_takeCode (s : State) (k : Code) : (s.takeCode k).busy = s.busy := rfl

theorem busy_iff (s : State) :
    s.busy = true ↔ s.phase.mode = .compressing ∨ s.phase.mode = .expanding := by
  unfold State.busy; cases s.phase.mode <;> simp

theorem ended_iff (s : State) : s.ended = true ↔ s.phase = .done ∨ s.phase = .fault := by
  unfold State.ended; cases s.phase <;> simp [Phase.mode]

theorem mode_done (p : Phase) : p.mode = .done ↔ p = .done := by cases p <;> simp [Phase.mode]

theorem mode_fault (p : Phase) : p.mode = .fault ↔ p = .fault := by cases p <;> simp [Phase.mode]

theorem mode_idle (p : Phase) : p.mode = .idle ↔ p = .idle := by cases p <;> simp [Phase.mode]

end Sys2Proof.Machine
end

