-- ==== Sys2Proof/Laws/Abstract.lean ====
section
/-! SUPPORT. The laws of the abstract dictionary and table: what a lookup gives after one more binding
(40_prefix_dictionary R108, 41_code_table R133), and that the longest-prefix search finds the longest
(R105). -/

namespace Sys2Proof.Machine

/-! ## Lookups after one more binding -/

/-- A new key of two or more bytes is bound to the code it was given. -/
theorem dictLookup_append_self {l : List Binding} {k : Code} {w : Seq} (hw : 2 ≤ w.length)
    (h : dictLookup l w = none) : dictLookup (l ++ [(k, w)]) w = some k := by
  match w, hw with
  | a :: b :: w, _ =>
    simp only [dictLookup, Option.map_eq_none_iff] at h ⊢
    rw [List.find?_append, h]; simp

/-- Every other sequence keeps its code, or stays unbound. -/
theorem dictLookup_append_ne {l : List Binding} {k : Code} {w x : Seq} (h : x ≠ w) :
    dictLookup (l ++ [(k, w)]) x = dictLookup l x := by
  match x with
  | [] => rfl
  | [a] => rfl
  | a :: b :: x =>
    have hx : (w == a :: b :: x) = false := by simpa using fun e => h e.symm
    simp only [dictLookup, List.find?_append]
    simp [hx]

/-- A new learned code stands for the sequence it was given. -/
theorem tableLookup_append_self {l : List Binding} {k : Code} {w : Seq} (hk : 257 ≤ k.toNat)
    (h : tableLookup l k = none) : tableLookup (l ++ [(k, w)]) k = some w := by
  have hc : classOf k = .dict := by
    unfold classOf; rw [if_neg (by omega), if_neg (by omega)]
  simp only [tableLookup, hc, Option.map_eq_none_iff] at h ⊢
  rw [List.find?_append, h]; simp

/-- Every other code keeps its sequence, or stays unbound. -/
theorem tableLookup_append_ne {l : List Binding} {k e : Code} {w : Seq} (h : e ≠ k) :
    tableLookup (l ++ [(k, w)]) e = tableLookup l e := by
  have hk : (k == e) = false := by simpa using fun q => h q.symm
  unfold tableLookup
  split
  · rfl
  · rfl
  · rw [List.find?_append]; simp [hk]

/-! ## The longest prefix -/

theorem longestUpTo_le (learned : List Binding) (x : Seq) (l : Nat) :
    longestUpTo learned x l ≤ l := by
  induction l with
  | zero => exact Nat.le_refl 0
  | succ l ih => unfold longestUpTo; split <;> omega

/-- No longer prefix, up to the bound, is a key (R105). -/
theorem longestUpTo_max {learned : List Binding} {x : Seq} {l m : Nat}
    (h : longestUpTo learned x l < m) (hm : m ≤ l) : dictLookup learned (x.take m) = none := by
  induction l with
  | zero => omega
  | succ l ih =>
    unfold longestUpTo at h
    split at h
    · omega
    · next hn =>
      by_cases e : m = l + 1
      · subst e; simpa using hn
      · exact ih h (by omega)

/-- A non-empty result is a key (R107). -/
theorem longestUpTo_isSome {learned : List Binding} {x : Seq} {l : Nat}
    (h : 0 < longestUpTo learned x l) :
    (dictLookup learned (x.take (longestUpTo learned x l))).isSome := by
  induction l with
  | zero => exact absurd h (Nat.lt_irrefl 0)
  | succ l ih =>
    unfold longestUpTo at h ⊢
    split
    · assumption
    · next hn => rw [if_neg hn] at h; exact ih h

/-- At least one byte matches, since every single byte is a key (R106). -/
theorem longestLen_pos (learned : List Binding) {x : Seq} (hx : x ≠ []) :
    0 < longestLen learned x := by
  by_contra h
  have h0 : longestUpTo learned x x.length < 1 := by unfold longestLen at h; omega
  have := longestUpTo_max h0 (List.length_pos_of_ne_nil hx)
  cases x with
  | nil => exact hx rfl
  | cons b x => simp [dictLookup] at this

/-! ## D and T through the shared operations -/

/-- Nothing but the learned bindings and whether the run is seeded decides D and T. -/
theorem dict_congr {s t : State} (ha : t.assigns = s.assigns) (hn : t.nextCode = s.nextCode)
    (x : Seq) : t.dict x = s.dict x := by
  simp only [State.dict, ha, hn]

theorem table_congr {s t : State} (ha : t.assigns = s.assigns) (hn : t.nextCode = s.nextCode)
    (k : Code) : t.table k = s.table k := by
  simp only [State.table, ha, hn]

/-- INBUF after the host's write of one byte inside it (R222). -/
theorem bufRead_write (s : State) (a : Word) (b : Byte) (ha : a.toNat < s.nMax.toNat) (c : Word) :
    ({ s with inbuf := Memory.write s.inbuf a.toNat b } : State).bufRead c =
      if c = a then b else s.bufRead c := by
  simp only [State.bufRead, State.inbufByte, Memory.read_write, BitVec.toNat_inj]
  by_cases e : c = a
  · subst e; simp [ha]
  · simp [e]

/-! ## The points of the mirror invariant -/

/-- At its first code the encoder has learned nothing. -/
@[simp] theorem encoderAt_one (x : Seq) :
    encoderAt x 1 = { codes := [], learned := [], next := 257 } := rfl

/-- Past its last code the decoder's point is the whole run. -/
theorem decoderAt_of_length_le {cs : List Code} {n : Nat} (h : cs.length ≤ n) :
    decoderAt cs n = expandAll cs := by
  rw [decoderAt, List.take_of_length_le h]

end Sys2Proof.Machine
end

