-- ==== Sys2Proof/Laws/PerInstr.lean ====
section
/-! SUPPORT. Laws stated of every instruction, one lemma per constructor. FitsWellFormed: an
instruction whose row applies in a legal context is well formed (30_encoding R87, 10_state R31). -/

namespace Sys2Proof.Laws.FitsWellFormed

/-- Where the row of `i` applies, in a legal context, the operands of `i` are well formed. -/
def Statement (i : Instr) : Prop :=
  ∀ c : Ctx, c.legal = true → i.fits c = true → i.wellFormed = true

theorem cmdCompress : Statement .cmdCompress := fun _ _ _ => rfl

theorem cmdExpand : Statement .cmdExpand := fun _ _ _ => rfl

theorem cmdInvalid (op : Word) : Statement (.cmdInvalid op) := fun c _ h => by
  simp only [Instr.fits, Bool.and_eq_true] at h
  simp only [Instr.wellFormed, Bool.and_eq_true]
  exact ⟨h.1.2, h.2⟩

theorem cmdWhileBusy (op : Word) : Statement (.cmdWhileBusy op) := fun _ _ _ => rfl

theorem cwFirstEos : Statement .cwFirstEos := fun _ _ _ => rfl

theorem cwFirstLit (b : Byte) : Statement (.cwFirstLit b) := fun _ _ _ => rfl

theorem cwFirstBad (k : Code) : Statement (.cwFirstBad k) := fun _ _ h => by
  simp only [Instr.fits, Bool.and_eq_true] at h
  exact h.2

theorem cwNextEos : Statement .cwNextEos := fun _ _ _ => rfl

theorem cwNextHit (k : Code) : Statement (.cwNextHit k) := fun c _ h => by
  cases c <;> simp only [Instr.fits, Ctx.nextWith, Bool.false_eq_true, Bool.and_eq_true] at h
  exact h.1

theorem cwNextSelfref (k : Code) : Statement (.cwNextSelfref k) := fun c hc h => by
  cases c <;> simp only [Instr.fits, Ctx.nextWith, Bool.false_eq_true, Bool.and_eq_true,
    decide_eq_true_eq] at h
  simp only [Ctx.legal, Bool.and_eq_true, decide_eq_true_eq] at hc
  simp only [Instr.wellFormed, decide_eq_true_eq]; omega

theorem cwNextBad (k : Code) : Statement (.cwNextBad k) := fun c hc h => by
  cases c <;> simp only [Instr.fits, Ctx.nextWith, Bool.false_eq_true, Bool.and_eq_true,
    decide_eq_true_eq] at h
  simp only [Ctx.legal, Bool.and_eq_true, decide_eq_true_eq] at hc
  simp only [Instr.wellFormed, decide_eq_true_eq]; omega

end Sys2Proof.Laws.FitsWellFormed
end

