-- ==== Sys2Proof/Laws/Step.lean ====
section
/-! SUPPORT. Said once, what a step can do: `EngineMove` lists every next state of an engine step,
`HostEffect` every next state of a host transaction, `CmdEffect` those of a CMD write, and
`step_moves` says that a step that answers a next state is one of them. -/

namespace Sys2Proof.Machine

/-- Every effect of a CMD write of the word `v` (R230 to R233). -/
inductive CmdEffect (v : Word) (s : State) : State → Prop
  | abort (hb : s.busy = true) : CmdEffect v s (s.takeFault .cmdBusy 0)
  | tooLong (hb : s.busy = false) (hv : v = Config.opCompress) (hn : s.nMax < s.inLen) :
      CmdEffect v s (s.acceptCmd.takeFault .length 0)
  | compress (hb : s.busy = false) (hv : v = Config.opCompress) (hn : ¬ s.nMax < s.inLen) :
      CmdEffect v s { s.acceptCmd with n := s.inLen, phase := .cSeed }
  | expand (hb : s.busy = false) (hv : v = Config.opExpand) :
      CmdEffect v s { s.acceptCmd with srcPos := 0, phase := .xSeed }
  | usage (hb : s.busy = false) (h1 : v ≠ Config.opCompress) (h2 : v ≠ Config.opExpand) :
      CmdEffect v s (s.acceptCmd.takeFault .usage 0)

/-- A CMD write always answers a next state, one of the five effects. -/
theorem cmd_effect (v : Word) (s : State) :
    ∃ t, exec (decodeCmd s.busy v) s = .next t ∧ CmdEffect v s t := by
  cases hb : s.busy with
  | true => exact ⟨_, by simp [decodeCmd, exec, execCmdWhileBusy, hb, State.abortRun], .abort hb⟩
  | false =>
    by_cases h1 : v = Config.opCompress
    · by_cases hn : s.nMax < s.inLen
      · exact ⟨_, by simp [decodeCmd, decodeCmdFree, exec, execCmdCompress, hb, h1,
          State.startCompress, hn], .tooLong hb h1 hn⟩
      · exact ⟨_, by simp [decodeCmd, decodeCmdFree, exec, execCmdCompress, hb, h1,
          State.startCompress, hn], .compress hb h1 hn⟩
    · by_cases h2 : v = Config.opExpand
      · subst h2
        exact ⟨_, by simp [decodeCmd, decodeCmdFree, exec, execCmdExpand, hb, h1,
          State.startExpand], .expand hb rfl⟩
      · exact ⟨_, by simp [decodeCmd, decodeCmdFree, exec, execCmdInvalid, hb, h1, h2],
          .usage hb h1 h2⟩

/-- Every next state of an engine step, by the phase it is taken in (R39). -/
inductive EngineMove (s : State) : State → Prop
  | rest (h : s.phase = .idle ∨ s.phase = .done ∨ s.phase = .fault) : EngineMove s s
  | cSeed (h : s.phase = .cSeed) : EngineMove s { s.trieSeed with
      i := 0, nextCode := Config.firstFree, codeCount := 0, byteCount := 0, phase := .cMatch }
  | matchEnd (h : s.phase = .cMatch) (hi : s.i = s.n) : EngineMove s { s with phase := .cEos }
  | matchStart (h : s.phase = .cMatch) (hi : s.i ≠ s.n) (ha : s.i.toNat < s.nMax.toNat) :
      EngineMove s { s.walkStart (s.inbufByte s.i) with phase := .cWalk }
  | walkEnd (h : s.phase = .cWalk) (hj : s.j = s.n ∨ s.p = Config.nil) :
      EngineMove s { s with phase := .cEmit }
  | walkVisit (h : s.phase = .cWalk) (hj : s.j ≠ s.n) (hp : s.p ≠ Config.nil)
      (ha : s.j.toNat < s.nMax.toNat) :
      EngineMove s { s.walkVisit (s.inbufByte s.j) with phase := .cWalk }
  | cEmit (h : s.phase = .cEmit) : EngineMove s
      { s.emit (.code s.bestCode) with codeCount := s.codeCount + 1, phase := .cGrow }
  | cGrow (h : s.phase = .cGrow) (hn : s.i.toNat + s.bestLen.toNat < s.n.toNat)
      (hc : s.nextCode.toNat < 4096) (ha : s.afterMatch.toNat < s.nMax.toNat) :
      EngineMove s { s.trieInsert (s.inbufByte s.afterMatch) with phase := .cAdv }
  | cNoGrow (h : s.phase = .cGrow)
      (hn : ¬ (s.i.toNat + s.bestLen.toNat < s.n.toNat ∧ s.nextCode.toNat < 4096)) :
      EngineMove s { s with phase := .cAdv }
  | cAdv (h : s.phase = .cAdv) : EngineMove s
      { s with i := s.afterMatch, byteCount := s.afterMatch, phase := .cMatch }
  | cEos (h : s.phase = .cEos) : EngineMove s
      { s.emit (.code Config.eos) with codeCount := s.codeCount + 1, phase := .cClose }
  | cClose (h : s.phase = .cClose) : EngineMove s { s.emit .close with phase := .done }
  | xSeed (h : s.phase = .xSeed) : EngineMove s { s.tabSeed with
      nextCode := Config.firstFree, codeCount := 0, byteCount := 0, phase := .xFirst }
  | truncated (h : s.phase = .xFirst ∨ s.phase = .xRead) (he : s.srcCode = none) :
      EngineMove s (s.takeFault .truncated 0)
  | firstEos (h : s.phase = .xFirst) (hk : s.srcCode = some Config.eos) :
      EngineMove s { s.takeCode Config.eos with phase := .xClose }
  | firstLit (h : s.phase = .xFirst) (k : Code) (hk : s.srcCode = some k) (hl : k.toNat < 256) :
      EngineMove s { s.takeCode k with cur := k, phase := .xEmit }
  | firstBad (h : s.phase = .xFirst) (k : Code) (hk : s.srcCode = some k) (hl : 257 ≤ k.toNat) :
      EngineMove s ((s.takeCode k).takeFault .malformed k)
  | xEmit (h : s.phase = .xEmit) : EngineMove s { s with sp := 0, p := s.cur, phase := .xPush }
  | pushEnd (h : s.phase = .xPush) (hp : s.p = Config.nil) : EngineMove s { s with phase := .xPop }
  | push (h : s.phase = .xPush) (hp : s.p ≠ Config.nil) (hs : s.sp.toNat < Config.maxSeqLen) :
      EngineMove s { s with
        lifo := Memory.write s.lifo s.sp.toNat (s.tabAt s.p).suffix
        sp := s.sp + 1
        p := (s.tabAt s.p).pre
        phase := .xPush }
  | popEnd (h : s.phase = .xPop) (hs : s.sp = 0) : EngineMove s { s with phase := .xRead }
  | pop (h : s.phase = .xPop) (hs : s.sp ≠ 0) (hl : s.sp.toNat ≤ Config.maxSeqLen) :
      EngineMove s { s.emit (.byte (s.lifoAt (s.sp.toNat - 1))) with
        sp := s.sp - 1
        byteCount := s.byteCount + 1
        phase := .xPop }
  | readEos (h : s.phase = .xRead) (hk : s.srcCode = some Config.eos) :
      EngineMove s { s.takeCode Config.eos with phase := .xClose }
  | read (h : s.phase = .xRead) (k : Code) (hk : s.srcCode = some k) (hne : k ≠ Config.eos) :
      EngineMove s { s.takeCode k with phase := .xResolve }
  | resolveEos (h : s.phase = .xResolve) (hk : s.k = Config.eos) :
      EngineMove s { s with phase := .xClose }
  | hit (h : s.phase = .xResolve) (hne : s.k ≠ Config.eos) (hk : s.k.toNat < s.nextCode.toNat) :
      EngineMove s { s with nfirst := s.firstOf s.k, phase := .xGrow }
  | selfref (h : s.phase = .xResolve) (hne : s.k ≠ Config.eos)
      (hk : s.k.toNat = s.nextCode.toNat) :
      EngineMove s { s with nfirst := s.firstOf s.cur, selfref := true, phase := .xGrow }
  | resolveBad (h : s.phase = .xResolve) (hne : s.k ≠ Config.eos)
      (hk : s.nextCode.toNat < s.k.toNat) : EngineMove s (s.takeFault .malformed s.k)
  | xGrow (h : s.phase = .xGrow) (hc : s.nextCode.toNat < 4096) :
      EngineMove s { s.tabAppend with phase := .xAdv }
  | xNoGrow (h : s.phase = .xGrow) (hc : ¬ s.nextCode.toNat < 4096) :
      EngineMove s { s with phase := .xAdv }
  | xAdv (h : s.phase = .xAdv) : EngineMove s { s with cur := s.k, phase := .xEmit }
  | xClose (h : s.phase = .xClose) : EngineMove s { s.emit .close with phase := .done }

theorem engineByte_some {s : State} {a : Word} {b : Byte} (h : s.engineByte a = some b) :
    a.toNat < s.nMax.toNat ∧ b = s.inbufByte a := by
  unfold State.engineByte at h
  split at h
  · next ha => exact ⟨ha, by simpa using h.symm⟩
  · simp at h

theorem byteCode_setWidth {k : Code} (h : k.toNat < 256) : byteCode (k.setWidth 8) = k := by
  apply BitVec.eq_of_toNat_eq
  simp only [byteCode_toNat, BitVec.toNat_setWidth]; omega

/-- The three outcomes of the first code (R192 to R195). -/
theorem first_moves {s t : State} {k : Code} (h : s.phase = .xFirst) (hk : s.srcCode = some k)
    (ht : exec (decodeFirst k) (s.takeCode k) = .next t) : EngineMove s t := by
  unfold decodeFirst at ht
  split at ht
  · next he =>
    subst he
    obtain ⟨-, rfl⟩ := inContext_next.1 ht
    exact .firstEos h hk
  · split at ht
    · next hl =>
      obtain ⟨-, rfl⟩ := inContext_next.1 ht
      have hl' : k.toNat < 256 := by omega
      rw [byteCode_setWidth hl']
      exact .firstLit h k hk hl'
    · next he hl =>
      obtain ⟨-, rfl⟩ := inContext_next.1 ht
      have : k.toNat ≠ 256 := (ne_eos_iff k).1 he
      exact .firstBad h k hk (by omega)

/-- The outcomes of a later code (R198 to R201). -/
theorem resolve_moves {s t : State} (h : s.phase = .xResolve)
    (ht : exec (decodeNext s.nextCode s.k) s = .next t) : EngineMove s t := by
  unfold decodeNext at ht
  split at ht
  · next he =>
    obtain ⟨-, rfl⟩ := inContext_next.1 ht
    exact .resolveEos h he
  · next he =>
    split at ht
    · next hl =>
      obtain ⟨-, rfl⟩ := inContext_next.1 ht
      exact .hit h he hl
    · next hl =>
      split at ht
      · next hq =>
        obtain ⟨-, rfl⟩ := inContext_next.1 ht
        exact .selfref h he hq
      · next hq =>
        obtain ⟨-, rfl⟩ := inContext_next.1 ht
        exact .resolveBad h he (by omega)

/-- An engine step that answers a next state is one of the moves of its phase. -/
theorem engineStep_moves {s t : State} (ht : engineStep s = .next t) : EngineMove s t := by
  unfold engineStep at ht
  cases h : s.phase <;> simp only [h] at ht
  case idle => cases ht; exact .rest (.inl h)
  case done => cases ht; exact .rest (.inr (.inl h))
  case fault => cases ht; exact .rest (.inr (.inr h))
  case cSeed => cases ht; exact .cSeed h
  case cMatch =>
    unfold phaseCMatch at ht
    split at ht
    · next hi => cases ht; exact .matchEnd h hi
    · next hi =>
      split at ht
      · cases ht
      · next b hb =>
        obtain ⟨ha, rfl⟩ := engineByte_some hb
        cases ht; exact .matchStart h hi ha
  case cWalk =>
    unfold phaseCWalk at ht
    split at ht
    · next hj => cases ht; exact .walkEnd h hj
    · next hj =>
      split at ht
      · cases ht
      · next b hb =>
        obtain ⟨ha, rfl⟩ := engineByte_some hb
        cases ht; exact .walkVisit h (fun e => hj (.inl e)) (fun e => hj (.inr e)) ha
  case cEmit => cases ht; exact .cEmit h
  case cGrow =>
    unfold phaseCGrow at ht
    simp only [lt_limit_iff] at ht
    split at ht
    · next hg =>
      split at ht
      · cases ht
      · next b hb =>
        obtain ⟨ha, rfl⟩ := engineByte_some hb
        cases ht; exact .cGrow h hg.1 hg.2 ha
    · next hg => cases ht; exact .cNoGrow h hg
  case cAdv => cases ht; exact .cAdv h
  case cEos => cases ht; exact .cEos h
  case cClose => cases ht; exact .cClose h
  case xSeed => cases ht; exact .xSeed h
  case xFirst =>
    unfold phaseXFirst at ht
    split at ht
    · next he => cases ht; exact .truncated (.inl h) he
    · next k hk => exact first_moves h hk ht
  case xEmit => cases ht; exact .xEmit h
  case xPush =>
    unfold phaseXPush at ht
    split at ht
    · next hp => cases ht; exact .pushEnd h hp
    · next hp =>
      split at ht
      · next hs => cases ht; exact .push h hp hs
      · cases ht
  case xPop =>
    unfold phaseXPop at ht
    split at ht
    · next hs => cases ht; exact .popEnd h hs
    · next hs =>
      split at ht
      · next hl => cases ht; exact .pop h hs hl
      · cases ht
  case xRead =>
    unfold phaseXRead at ht
    split at ht
    · next he => cases ht; exact .truncated (.inr h) he
    · next k hk =>
      split at ht
      · next he =>
        subst he
        obtain ⟨-, rfl⟩ := inContext_next.1 ht
        exact .readEos h hk
      · next hne => cases ht; exact .read h k hk hne
  case xResolve => exact resolve_moves h ht
  case xGrow =>
    unfold phaseXGrow at ht
    cases ht
    split
    · next hc => exact .xGrow h ((lt_limit_iff _).1 hc)
    · next hc => exact .xNoGrow h (fun e => hc ((lt_limit_iff _).2 e))
  case xAdv => cases ht; exact .xAdv h
  case xClose => cases ht; exact .xClose h

/-- Every next state of a host transaction (R220). -/
inductive HostEffect (m : HostMove) (s : State) : State → Prop
  | regRead (idx : RegIdx) (hm : m = .regRead idx) : HostEffect m s { s with
      replies := s.replies ++ [.reg idx (s.readReg idx)]
      draws := if s.busy then s.draws + 1 else s.draws }
  | cmd (v : Word) (hm : m = .regWrite 0 v) (t : State) (h : CmdEffect v s t) : HostEffect m s t
  | inLen (v : Word) (hm : m = .regWrite 2 v) : HostEffect m s { s with inLen := v }
  | ignored (idx : RegIdx) (v : Word) (hm : m = .regWrite idx v) (h0 : idx ≠ 0) (h2 : idx ≠ 2) :
      HostEffect m s s
  | bufRead (a : Word) (hm : m = .bufRead a) :
      HostEffect m s { s with replies := s.replies ++ [.buf a (s.bufRead a)] }
  | dropped (a : Word) (b : Byte) (hm : m = .bufWrite a b)
      (h : s.phase.mode = .compressing ∨ ¬ a.toNat < s.nMax.toNat) : HostEffect m s s
  | bufWrite (a : Word) (b : Byte) (hm : m = .bufWrite a b) (hc : s.phase.mode ≠ .compressing)
      (ha : a.toNat < s.nMax.toNat) :
      HostEffect m s { s with inbuf := Memory.write s.inbuf a.toNat b }
  | attach (src : CodeSource) (hm : m = .attach src) (he : s.phase.mode ≠ .expanding) :
      HostEffect m s { s with source := src, srcPos := 0 }
  | reset (hm : m = .reset) : HostEffect m s s.assertReset

/-- A host transaction that answers a next state has one of these effects. -/
theorem hostMove_effects {m : HostMove} {s t : State} (ht : hostMove m s = .next t) :
    HostEffect m s t := by
  cases m with
  | regRead idx => cases ht; exact .regRead idx rfl
  | regWrite idx v =>
    simp only [hostMove, hostRegWrite] at ht
    split at ht
    · next h =>
      subst h
      obtain ⟨u, hu, he⟩ := cmd_effect v s
      rw [hu] at ht; cases ht
      exact .cmd v rfl t he
    · next h0 =>
      split at ht
      · next h => subst h; cases ht; exact .inLen v rfl
      · next h2 => cases ht; exact .ignored idx v rfl h0 h2
  | bufRead a => cases ht; exact .bufRead a rfl
  | bufWrite a b =>
    simp only [hostMove, hostBufWrite] at ht
    split at ht
    · next h => cases ht; exact .dropped a b rfl h
    · next h => cases ht; exact .bufWrite a b rfl (fun e => h (.inl e)) (by tauto)
  | attach src =>
    simp only [hostMove, hostAttach] at ht
    split at ht
    · cases ht
    · next h => cases ht; exact .attach src rfl h
  | reset => cases ht; exact .reset rfl

/-- An engine turn uses up at most one entry of `turns` and changes nothing else. -/
theorem engineTurn_eq {s u : State} (h : s.engineTurn = some u) :
    u = { s with turns := u.turns } := by
  unfold State.engineTurn at h
  split at h
  · cases h; rfl
  · cases h; rfl
  · split at h <;> cases h
    rfl
  · cases h

/-- The engine's turn is a step of its phase (R292). -/
theorem step_engineTurn {s u : State} (h : s.engineTurn = some u) : step s = engineStep u := by
  unfold State.engineTurn at h
  unfold step takeTurn
  split at h
  · next hs => cases h; simp only [hs]
  · next ts hs => cases h; simp only [hs]
  · next ts hs =>
    split at h <;> cases h
    next he => simp only [hs, if_neg he]
  · cases h

/-- Every way a step can answer a next state: the engine moves, the host moves, or a wait ends. -/
inductive Moves (s : State) : State → Prop
  | engine (u t : State) (h : s.engineTurn = some u) (hm : EngineMove u t) : Moves s t
  | host (m : HostMove) (ts : List Turn) (t : State) (h : s.turns = .host m :: ts)
      (hm : HostEffect m { s with turns := ts } t) : Moves s t
  | waited (ts : List Turn) (h : s.turns = .wait :: ts) (he : s.ended = true) :
      Moves s { s with turns := ts }

/-- What a step can do. -/
theorem step_moves {s t : State} (ht : step s = .next t) : Moves s t := by
  cases h : s.engineTurn with
  | some u => exact .engine u t h (engineStep_moves (step_engineTurn h ▸ ht))
  | none =>
    unfold State.engineTurn at h
    unfold step takeTurn at ht
    split at h
    · cases h
    · cases h
    · next ts hs =>
      rw [hs] at ht
      split at h
      · next he =>
        simp only [he, if_true] at ht
        cases ht; exact .waited ts hs he
      · cases h
    · next m ts hs =>
      rw [hs] at ht
      exact .host m ts t hs (hostMove_effects ht)

end Sys2Proof.Machine
end

