-- ==== Sys2Proof/Tests/Slice0.lean ====
section
/-! SUPPORT. Tests: the WellFormed smoke, words written out from spec/, small steps with expected
values from spec/, and for every obligation with hypotheses a state that meets them (`witness_…`). -/

namespace Sys2Proof.Tests

open Sys2Proof.Machine

/-- The next state of an outcome, if it has one. -/
def nextOf : Host.Outcome State Fault Refusal → Option State
  | .next s => some s
  | .fault _ => none
  | .refused _ => none

/-- A machine with an INBUF of four bytes, in phase `p`. -/
def small (p : Phase) : State := { State.resetWith 4 with phase := p }

/-- An engine in an expand run past its seed phase: the seeded table, NEXT_CODE = 257, and `k` in K. -/
def seededX (p : Phase) (k : Code) : State :=
  { (State.resetWith 4).tabSeed with phase := p, nextCode := 257, cur := 0x41, k := k }

/-- A compress run about to start, on the input "A" (INBUF[0] = 0x41). -/
def startC : State := { small .cSeed with inbuf := [(0, 0x41)], inLen := 1, n := 1 }

/-- An expand run about to start, on the source [65, EOS]. -/
def startX : State := { small .xSeed with source := { codes := [65, 256], tail := .ends } }

/-! ## WellFormed refuses -/

theorem test_wf_invalid_is_compress : (Instr.cmdInvalid 0x2D).wellFormed = false := by decide
theorem test_wf_invalid_is_expand : (Instr.cmdInvalid 0x2B).wellFormed = false := by decide
theorem test_wf_firstBad_eos : (Instr.cwFirstBad 0x100).wellFormed = false := by decide
theorem test_wf_nextHit_eos : (Instr.cwNextHit 0x100).wellFormed = false := by decide
theorem test_wf_nextSelfref_low : (Instr.cwNextSelfref 0x0FF).wellFormed = false := by decide
theorem test_wf_nextBad_low : (Instr.cwNextBad 0x101).wellFormed = false := by decide
theorem test_wf_ctx_low : (Ctx.next 256).legal = false := by decide
theorem test_wf_ctx_high : (Ctx.next 4097).legal = false := by decide
theorem test_wf_ctx_limit : (Ctx.next 4096).legal = true := by decide

/-! ## Decoding: every row, from the opcode map of 30_encoding R87 -/

theorem test_decode_compress :
    decodeTableWord 32 0b101101 = some .cmdCompress := by decide
theorem test_decode_expand :
    decodeTableWord 32 0b101011 = some .cmdExpand := by decide
theorem test_decode_invalid :
    decodeTableWord 32 0x12D = some (.cmdInvalid 0x12D) := by decide
theorem test_decode_busy :
    decode .cmdBusy (.cmd 0x2B) = .ok (.cmdWhileBusy 0x2B) := by rfl
theorem test_decode_first_eos :
    decodeTableWord 16 0b000100000000 = some .cwFirstEos := by decide
theorem test_decode_first_lit :
    decodeTableWord 16 0b000001000001 = some (.cwFirstLit 0x41) := by decide
theorem test_decode_first_bad :
    decodeTableWord 12 0b000100000001 = some (.cwFirstBad 0x101) := by decide
theorem test_decode_next_eos :
    decode (.next 257) (.code 0b000100000000) = .ok .cwNextEos := by rfl
theorem test_decode_next_hit :
    decode (.next 4096) (.code 0b111111111111) = .ok (.cwNextHit 0xFFF) := by rfl
theorem test_decode_next_selfref :
    decode (.next 257) (.code 0b000100000001) = .ok (.cwNextSelfref 0x101) := by rfl
theorem test_decode_next_bad :
    decode (.next 257) (.code 0b000100000010) = .ok (.cwNextBad 0x102) := by rfl
theorem test_reject_width : decodeTableWord 8 0x2D = none := by decide
theorem test_reject_wide_code : decodeTableWord 16 0x1100 = none := by decide
theorem test_reject_port : decode .first (.cmd 0x2D) = .error .wrongPort := by rfl

/-! ## Pack and Unpack: the examples of 44_host_interface R227, R228 -/

theorem test_pack : pack [0xABC, 0x123] = [0xAB, 0xC1, 0x23] := by decide
theorem test_pack_pad : pack [0x041, 0x100] = [0x04, 0x11, 0x00] := by decide
theorem test_unpack : unpack [0x04, 0x10, 0x42, 0x10, 0x11, 0x03, 0x10] =
    [0x041, 0x042, 0x101, 0x103] := by decide
theorem test_unpack_short : unpack [0x10] = [] := by decide

/-! ## One step each -/

/-- R160: IN_LEN = N_MAX is still accepted. -/
theorem test_compress_at_limit :
    (nextOf (exec .cmdCompress { small .idle with inLen := 4 })).map (·.phase) = some .cSeed := by
  decide
/-- R233: IN_LEN = N_MAX + 1 is LENGTH: CAUSE 5, IRQ, STATE 4. -/
theorem test_compress_length :
    (nextOf (exec .cmdCompress { small .idle with inLen := 5 })).map (·.statusWord) =
      some 0x514 := by decide
/-- R190, R230: an accepted EXPAND drops irq and clears SELFREF. -/
theorem test_expand_clears :
    (nextOf (exec .cmdExpand { small .done with selfref := true })).map (·.statusWord) =
      some 0x002 := by decide
/-- R231: the example `WREG CMD, 0x41`. -/
theorem test_invalid_status :
    (nextOf (hostMove (.regWrite 0 0x41) (small .idle))).map (·.statusWord) = some 0x114 := by
  decide
/-- R232: Abort, CAUSE 4. -/
theorem test_busy_abort :
    (nextOf (hostMove (.regWrite 0 0x2B) (small .cWalk))).map (fun t => (t.sink, t.cause)) =
      some ([.abort], .cmdBusy) := by decide
/-- R193. -/
theorem test_first_eos :
    (nextOf (exec .cwFirstEos { small .xFirst with k := 0x100 })).map (·.phase) =
      some .xClose := by decide
/-- R194, at the greatest byte. -/
theorem test_first_lit :
    (nextOf (exec (.cwFirstLit 0xFF) { small .xFirst with k := 0x0FF })).map (·.cur) =
      some 0x0FF := by decide
/-- R195: [257, EOS] faults with FAULT_INFO = 0x101. -/
theorem test_first_bad :
    (nextOf (exec (.cwFirstBad 0x101) { small .xFirst with k := 0x101 })).map (·.faultInfo) =
      some 0x101 := by decide
/-- R198. -/
theorem test_next_eos :
    (nextOf (exec .cwNextEos { small .xRead with k := 0x100 })).map (·.phase) =
      some .xClose := by decide
/-- R199: T(66) = "B". -/
theorem test_next_hit :
    (nextOf (exec (.cwNextHit 66) (seededX .xResolve 66))).map (·.nfirst) = some 66 := by decide
/-- R200: current = "A", K = NEXT_CODE = 257 give NFIRST = 'A' and SELFREF. -/
theorem test_next_selfref :
    (nextOf (exec (.cwNextSelfref 257) (seededX .xResolve 257))).map
      (fun t => (t.nfirst, t.selfref)) = some (0x41, true) := by decide
/-- R201: [65, 258, EOS] faults with FAULT_INFO = 0x102. -/
theorem test_next_bad :
    (nextOf (exec (.cwNextBad 258) (seededX .xResolve 258))).map (·.faultInfo) =
      some 0x102 := by decide
/-- R138: CUR = 65, NFIRST = 0x42, NEXT_CODE = 257 write tab[257] = { 65, 0x42, 0x41, 2 }. -/
theorem test_tab_append :
    ({ small .xGrow with
        tab := [(65, seedEntry 65)], cur := 65, nfirst := 0x42
        nextCode := 257 } : State).tabAppend.tabAt 257 =
      { pre := 65, suffix := 0x42, first := 0x41, len := 2 } := by decide
/-- R113: node[0x41] after TRIE_SEED. -/
theorem test_trie_seed : (small .cSeed).trieSeed.nodeAt 0x41 =
    { c := 0x41, lo := 0x100, eq := 0x100, hi := 0x100, term := true, code := 0x41 } := by decide
/-- R168: COMPRESS("ABABABA") = 65, 66, 257, 259, 256 (42_compress R160, V-C6). -/
theorem test_compress_all :
    (compressAll [65, 66, 65, 66, 65, 66, 65]).codes = [65, 66, 257, 259, 256] := by decide
/-- R205: the same codes expand to "ABABABA", with a self-reference (43_expand R190, V-X4). -/
theorem test_expand_all : expandAll [65, 66, 257, 259, 256] =
    { out := [65, 66, 65, 66, 65, 66, 65], cause := .none, info := 0, next := 260, count := 5
      selfref := true, learned := [(257, [65, 66]), (258, [66, 65]), (259, [65, 66, 65])] } := by
  decide

/-- V-MI1 (43_expand R210), "ABABABA": at n = 1 to 4 the encoder has learned nothing, 257 AB,
258 BA, 259 ABA. -/
theorem test_mirror_encoder :
    [1, 2, 3, 4].map (fun n => (encoderAt [65, 66, 65, 66, 65, 66, 65] n).learned) =
      [[], [(257, [65, 66])], [(257, [65, 66]), (258, [66, 65])],
        [(257, [65, 66]), (258, [66, 65]), (259, [65, 66, 65])]] := by decide
/-- V-MI1: and so has the decoder of 65, 66, 257, 259, which binds 259 by the self-reference. -/
theorem test_mirror_decoder :
    [1, 2, 3, 4].map (fun n => (decoderAt [65, 66, 257, 259, 256] n).learned) =
      [[], [(257, [65, 66])], [(257, [65, 66]), (258, [66, 65])],
        [(257, [65, 66]), (258, [66, 65]), (259, [65, 66, 65])]] := by decide

/-- A command word placed after reset is the next step's instruction. -/
theorem test_fetch_command :
    (nextOf (step (State.reset.withFetchWord 32 0x2B))).map (·.phase) = some .xSeed := by decide
/-- A code word placed after reset is the first code of an expand run. -/
theorem test_fetch_code :
    (nextOf (step (State.reset.withFetchWord 16 0x100))).map (·.phase) = some .xClose := by decide

/-! ## States that meet the invariant -/

/-- A compress run about to start meets the invariant. -/
theorem startC_inv : Inv startC where
  reg := {
    nMax_pos := by decide
    inbuf_wf := by decide
    node_wf := rfl
    tab_wf := rfl
    lifo_wf := rfl
    nextCode_legal := .inl rfl
    cause_iff := by decide
    faultInfo_zero := .inl rfl
    idle_rest := by decide
    seed_entry := fun _ => ⟨rfl, rfl, rfl, rfl⟩
    seeded := by decide
    compress_selfref := fun _ => rfl
    assigns_codes := rfl
    assigns_len := nofun }
  compress := {
    n_le := by decide
    i_le := fun _ h => absurd rfl h
    byteCount_eq := fun _ h => absurd rfl h
    nodes := fun _ h => absurd rfl h
    matched := fun h => absurd h (by decide)
    walking := fun h => absurd h (by decide)
    missed := fun h => absurd h (by decide)
    at_end := fun h => absurd h (by decide) }
  expand := {
    entries := fun h => absurd h (by decide)
    current := fun h => absurd h (by unfold Phase.hasCurrent; decide)
    pushing := fun h => absurd h (by decide)
    popping := fun h => absurd h (by decide)
    resolving := fun h => absurd h (by decide)
    growing := fun h => absurd h (by decide)
    advancing := fun h => absurd h (by decide) }

/-- A state in an expand run's seed phase, whatever its source, meets the invariant. -/
theorem startX_inv : Inv startX where
  reg := {
    nMax_pos := by decide
    inbuf_wf := rfl
    node_wf := rfl
    tab_wf := rfl
    lifo_wf := rfl
    nextCode_legal := .inl rfl
    cause_iff := by decide
    faultInfo_zero := .inl rfl
    idle_rest := by decide
    seed_entry := fun _ => ⟨rfl, rfl, rfl, rfl⟩
    seeded := by decide
    compress_selfref := fun _ => rfl
    assigns_codes := rfl
    assigns_len := nofun }
  compress := {
    n_le := fun h => absurd h (by decide)
    i_le := fun h => absurd h (by decide)
    byteCount_eq := fun h => absurd h (by decide)
    nodes := fun h => absurd h (by decide)
    matched := fun h => absurd h (by decide)
    walking := fun h => absurd h (by decide)
    missed := fun h => absurd h (by decide)
    at_end := fun h => absurd h (by decide) }
  expand := {
    entries := fun _ h => absurd rfl h
    current := fun h => absurd h (by unfold Phase.hasCurrent; decide)
    pushing := fun h => absurd h (by decide)
    popping := fun h => absurd h (by decide)
    resolving := fun h => absurd h (by decide)
    growing := fun h => absurd h (by decide)
    advancing := fun h => absurd h (by decide) }

/-- In the seeded states the bound codes are the bytes. -/
theorem bound_seededX {p : Phase} {k c : Code} (h : (seededX p k).bound c) : c.toNat < 256 := by
  obtain ⟨h1, h2⟩ := h
  have h3 : c.toNat ≠ 256 := (ne_eos_iff c).1 h1
  have h4 : c.toNat < 257 := h2
  omega

theorem tabAt_seededX (p : Phase) (k : Code) {c : Code} (h : c.toNat < 256) :
    (seededX p k).tabAt c = seedEntry c.toNat := by
  have := tabAt_tabSeed (State.resetWith 4) c
  rw [if_pos h] at this
  exact this

/-- The seeded table represents T0 (R141). -/
theorem seededX_sound (p : Phase) (k : Code) : (seededX p k).TableSound := fun c h => by
  have hc := bound_seededX h
  have hchain : ∀ f, (seededX p k).chainSeq (f + 1) c = [litByte c] := fun f => by
    simp only [State.chainSeq, tabAt_seededX p k hc]
    exact congrArg (fun b => [b]) (BitVec.eq_of_toNat_eq (by simp [seedEntry, litByte]))
  have hseq : (seededX p k).seqOf c = [litByte c] := hchain 4095
  refine ⟨?_, ?_, ?_⟩
  · rw [hseq]
    show tableLookup [] c = _
    simp [tableLookup, classOf, show c.toNat ≤ 255 by omega]
  · rw [hseq, tabAt_seededX p k hc]
    exact congrArg some (BitVec.eq_of_toNat_eq (by simp [seedEntry, litByte]))
  · rw [hseq, tabAt_seededX p k hc]; rfl

/-- An expand run about to emit "A" meets the invariant. -/
theorem seededX_inv : Inv (seededX .xEmit 0x41) where
  reg := {
    nMax_pos := by decide
    inbuf_wf := rfl
    node_wf := rfl
    tab_wf := Memory.wf_seed rfl (by decide) _
    lifo_wf := rfl
    nextCode_legal := .inr (by decide)
    cause_iff := by decide
    faultInfo_zero := .inl rfl
    idle_rest := by decide
    seed_entry := fun h => absurd h (by decide)
    seeded := fun _ => by decide
    compress_selfref := fun _ => rfl
    assigns_codes := rfl
    assigns_len := nofun }
  compress := {
    n_le := fun h => absurd h (by decide)
    i_le := fun h => absurd h (by decide)
    byteCount_eq := fun h => absurd h (by decide)
    nodes := fun h => absurd h (by decide)
    matched := fun h => absurd h (by decide)
    walking := fun h => absurd h (by decide)
    missed := fun h => absurd h (by decide)
    at_end := fun h => absurd h (by decide) }
  expand := {
    entries := fun _ _ c h => by
      have hc := bound_seededX h
      refine ⟨?_, ?_⟩
      · show (Memory.read (Memory.seed [] 256 seedEntry) c.toNat).isSome
        simp [Memory.read_seed, hc]
      · rw [if_pos hc]; exact tabAt_seededX _ _ hc
    current := fun _ => ⟨by decide, by decide⟩
    pushing := fun h => absurd h (by decide)
    popping := fun h => absurd h (by decide)
    resolving := fun h => absurd h (by decide)
    growing := fun h => absurd h (by decide)
    advancing := fun h => absurd h (by decide) }

/-! ## The hypotheses of the obligations can be met -/

theorem witness_StepKeepsInvariant : Inv startC ∧ ∃ t, step startC = .next t ∧ t.phase = .cMatch :=
  ⟨startC_inv, _, rfl, rfl⟩

theorem witness_StepNeverStops : Inv startX ∧
    ∀ src ts, startX.turns = .host (.attach src) :: ts → startX.phase.mode ≠ .expanding :=
  ⟨startX_inv, nofun⟩

theorem witness_StateTransitions_end :
    ∃ t, step (small .cClose) = .next t ∧ t.phase.mode ≠ (small .cClose).phase.mode :=
  ⟨_, rfl, by decide⟩

theorem witness_StateTransitions_cmd :
    ∃ t, step { small .idle with turns := [.host (.regWrite 0 0x2D)] } = .next t ∧
      t.phase.mode ≠ Mode.idle :=
  ⟨_, rfl, by decide⟩

theorem witness_StateTransitions_reset :
    ∃ t, step { small .xPop with turns := [.host .reset] } = .next t ∧
      t.phase.mode ≠ Mode.expanding :=
  ⟨_, rfl, by decide⟩

theorem witness_QuiescentRegisterReads : (small .done).busy = false := by decide

theorem witness_MidRunRegisterReads : (small .cSeed).busy = true ∧ (small .xClose).busy = true := by
  decide

theorem witness_IgnoredRegisterWrites :
    ((1 : RegIdx) ≠ 0 ∧ (1 : RegIdx) ≠ 2) ∧ 7 ≤ (7 : RegIdx).toNat ∧ 7 ≤ (15 : RegIdx).toNat := by
  decide

theorem witness_InLenSampling :
    ∃ t, step { small .idle with inLen := 4, turns := [.host (.regWrite 0 0x2D)] } = .next t ∧
      t.n ≠ (small .idle).n :=
  ⟨_, rfl, by decide⟩

theorem witness_InbufPort_dropped :
    (small .cClose).phase.mode = .compressing ∧ (small .idle).nMax.toNat ≤ (4 : Word).toNat := by
  decide

theorem witness_InbufPort_stored :
    (small .xSeed).phase.mode ≠ .compressing ∧ (3 : Word).toNat < (small .xSeed).nMax.toNat := by
  decide

theorem witness_InbufWriters :
    ∃ t, step { small .idle with turns := [.host (.bufWrite 3 0x7F)] } = .next t ∧
      t.bufRead 3 = 0x7F :=
  ⟨_, rfl, by decide⟩

theorem witness_AttachSource :
    (small .fault).phase.mode ≠ .expanding ∧ (small .xClose).phase.mode = .expanding ∧
    ∃ t, step { small .idle with turns := [.host (.attach { codes := [65], tail := .ends })] } =
      .next t ∧ t.source ≠ (small .idle).source :=
  ⟨by decide, by decide, _, rfl, by decide⟩

theorem witness_SourceReads :
    startX.source.tail = .ends ∧
    ({ small .xRead with source := { codes := [], tail := .repeats 65 [] } } : State).source.tail ≠
      .ends ∧
    ∃ t, ({ startX with phase := .xFirst } : State).srcCode = some 65 ∧
      engineStep { startX with phase := .xFirst } = .next t :=
  ⟨rfl, by decide, _, rfl, rfl⟩

theorem witness_CompressCommandStartsRun :
    (small .fault).busy = false ∧
      ({ small .fault with inLen := 4 } : State).inLen.toNat ≤ (small .fault).nMax.toNat := by
  decide

theorem witness_CompressCommandLength :
    (small .idle).busy = false ∧
      (small .idle).nMax.toNat < ({ small .idle with inLen := 5 } : State).inLen.toNat := by decide

theorem witness_ExpandCommand : (small .done).busy = false ∧ (small .xSeed).busy = true := by decide

theorem witness_InvalidCommand :
    (small .idle).busy = false ∧ (0 : Word) ≠ 0x2D ∧ (0 : Word) ≠ 0x2B := by decide

theorem witness_BusyWriteAborts : (small .cSeed).busy = true ∧ (small .xClose).busy = true := by
  decide

theorem witness_CommandFrame :
    ∃ t, exec .cmdExpand (small .idle) = .next t ∧ t.phase = .xSeed := ⟨_, rfl, rfl⟩

theorem witness_FirstEos :
    (seededX .xFirst 0x100).phase = .xFirst ∧ (seededX .xFirst 0x100).k = 0x100 := ⟨rfl, rfl⟩

theorem witness_FirstLit :
    (seededX .xFirst 0xFF).phase = .xFirst ∧ (seededX .xFirst 0xFF).k = (0xFF : Byte).setWidth 12 :=
  ⟨rfl, rfl⟩

theorem witness_FirstBad :
    (seededX .xFirst 0x101).phase = .xFirst ∧ (seededX .xFirst 0x101).k = 0x101 ∧
      257 ≤ (0x101 : Code).toNat := ⟨rfl, rfl, by decide⟩

theorem witness_NextEos :
    ((seededX .xRead 0x100).phase = .xRead ∧ (seededX .xRead 0x100).k = 0x100) ∧
    (seededX .xResolve 0x100).phase = .xResolve ∧ (seededX .xResolve 0x100).k = 0x100 :=
  ⟨⟨rfl, rfl⟩, rfl, rfl⟩

theorem witness_NextHit :
    (seededX .xResolve 0xFF).phase = .xResolve ∧ (seededX .xResolve 0xFF).k = 0xFF ∧
      (0xFF : Code) ≠ 0x100 ∧ (0xFF : Code).toNat < (seededX .xResolve 0xFF).nextCode.toNat ∧
      (seededX .xResolve 0xFF).TableSound ∧ (seededX .xResolve 0xFF).table 0xFF = some [0xFF] :=
  ⟨rfl, rfl, by decide, by decide, seededX_sound _ _, by decide⟩

theorem witness_NextSelfref :
    (seededX .xResolve 257).phase = .xResolve ∧ (seededX .xResolve 257).k = 257 ∧
      (257 : Code) ≠ 0x100 ∧ (257 : Code).toNat = (seededX .xResolve 257).nextCode.toNat :=
  ⟨rfl, rfl, by decide, rfl⟩

theorem witness_NextBad :
    (seededX .xResolve 258).phase = .xResolve ∧ (seededX .xResolve 258).k = 258 ∧
      (258 : Code) ≠ 0x100 ∧ (seededX .xResolve 258).nextCode.toNat < (258 : Code).toNat :=
  ⟨rfl, rfl, by decide, by decide⟩

theorem witness_CodeWordFrame :
    ∃ t, exec (.cwNextHit 66) (seededX .xResolve 66) = .next t ∧ t.phase = .xGrow :=
  ⟨_, rfl, rfl⟩

theorem witness_CodeWordOutOfContext :
    ¬ ((small .idle).phase = .xFirst ∧ (small .idle).k = 0x100) ∧
    ¬ ((small .xResolve).phase = .xResolve ∧ (small .xResolve).k = 0x100 ∧ (0x100 : Code) ≠ 0x100 ∧
      (0x100 : Code).toNat < (small .xResolve).nextCode.toNat) := by decide

theorem witness_StepRuns_cmd :
    ({ small .cWalk with turns := [.host (.regWrite 0 7)] } : State).turns =
      [.host (.regWrite 0 7)] ∧
    decode (small .cWalk).cmdCtx (.cmd 7) = .ok (.cmdWhileBusy 7) := ⟨rfl, rfl⟩

theorem witness_StepRuns_first :
    ({ startX with phase := .xFirst } : State).engineTurn = some { startX with phase := .xFirst } ∧
    ({ startX with phase := .xFirst } : State).srcCode = some 65 ∧
    decode .first (.code 65) = .ok (.cwFirstLit 65) := ⟨rfl, rfl, rfl⟩

theorem witness_StepRuns_read :
    ({ startX with phase := .xRead, srcPos := 1 } : State).engineTurn =
      some { startX with phase := .xRead, srcPos := 1 } ∧
    ({ startX with phase := .xRead, srcPos := 1 } : State).srcCode = some 0x100 ∧
    decode (.next 257) (.code 0x100) = .ok .cwNextEos := ⟨rfl, rfl, rfl⟩

theorem witness_StepRuns_resolve :
    (seededX .xResolve 257).engineTurn = some (seededX .xResolve 257) ∧
    decode (.next (seededX .xResolve 257).nextCode) (.code (seededX .xResolve 257).k) =
      .ok (.cwNextSelfref 257) := ⟨rfl, rfl⟩

theorem witness_StepRuns_wait :
    ({ small .done with turns := [.wait] } : State).turns = [.wait] ∧
      ({ small .done with turns := [.wait] } : State).ended = true := ⟨rfl, rfl⟩

theorem witness_QuiescentHolds :
    (small .fault).busy = false ∧ ∃ t, step (small .fault) = .next t ∧
      (∀ v ts, (small .fault).turns ≠ .host (.regWrite 0 v) :: ts) ∧
      ∀ ts, (small .fault).turns ≠ .host .reset :: ts := ⟨rfl, _, rfl, nofun, nofun⟩

theorem witness_CSeedPhase : (small .cSeed).phase = .cSeed ∧ (small .cSeed).assigns = [] :=
  ⟨rfl, rfl⟩

theorem witness_CMatch :
    (small .cMatch).i = (small .cMatch).n ∧
    ({ small .cMatch with i := 3, n := 4 } : State).i ≠
      ({ small .cMatch with i := 3, n := 4 } : State).n ∧
    (3 : Word).toNat < (small .cMatch).nMax.toNat := by decide

/-- The byte 0x41 against nodes with a greater, a smaller and the same byte. -/
theorem witness_CWalk :
    ({ small .cWalk with inbuf := [(3, 0x41)], n := 4, j := 3, p := 0x42 } : State).trieSeed.inbufByte
      3 = 0x41 ∧ (3 : Word) ≠ 4 ∧ (0x42 : Code) ≠ 0x100 ∧
    (0x41 : Byte) < ((small .cWalk).trieSeed.nodeAt 0x42).c ∧
    ((small .cWalk).trieSeed.nodeAt 0x40).c < (0x41 : Byte) ∧
    (0x41 : Byte) = ((small .cWalk).trieSeed.nodeAt 0x41).c := by decide

/-- One byte of match and one byte after it, with the code space open up to its last code. -/
theorem witness_CGrow :
    ∀ s : State, s = { small .cGrow with
      i := 2, bestLen := 1, n := 4, nextCode := 4095, missNode := 0x41 } →
    s.i.toNat + s.bestLen.toNat < s.n.toNat ∧ s.n.toNat ≤ s.nMax.toNat ∧ 0 < s.nextCode.toNat ∧
      s.nextCode.toNat < 4096 ∧ (0xFFF : Code).toNat = s.nextCode.toNat ∧ s.missNode ≠ 0xFFF ∧
      1 ≤ s.bestLen.toNat ∧ s.dict (s.inbufSlice s.i (s.bestLen.toNat + 1)) = none := by
  rintro _ rfl
  exact ⟨by decide, by decide, by decide, by decide, by decide, by decide, by decide, rfl⟩

theorem witness_CGrow_none :
    (4 : Nat) ≤ (3 : Word).toNat + (1 : Len).toNat ∧ (4096 : Counter).toNat = 4096 := by decide

theorem witness_CAdvPhase :
    ({ small .cAdv with i := 3, bestLen := 1, n := 4 } : State).i.toNat + (1 : Len).toNat ≤
      (4 : Word).toNat := by decide

theorem witness_XSeedPhase : startX.phase = .xSeed ∧ startX.assigns = [] := ⟨rfl, rfl⟩

theorem witness_Truncated : (small .xFirst).srcEod = true ∧ (small .xRead).srcEod = true := by decide

theorem witness_TakeOneCode :
    ({ startX with phase := .xFirst } : State).srcCode = some 65 ∧
    ({ startX with phase := .xRead, srcPos := 1 } : State).srcCode = some 0x100 ∧
    (65 : Code).toNat ≤ 255 ∧ 257 ≤ (0x101 : Code).toNat ∧ (65 : Code) ≠ 0x100 := by decide

theorem witness_ReconstructPhases :
    ({ small .xPush with p := 0x100 } : State).p = 0x100 ∧ (0x41 : Code) ≠ 0x100 ∧
    (3839 : Len).toNat < 3840 ∧ (small .xPop).sp = 0 ∧
    0 < (1 : Len).toNat ∧ (3840 : Len).toNat ≤ 3840 := by decide

theorem witness_XGrow :
    257 ≤ (seededX .xGrow 66).nextCode.toNat ∧ (seededX .xGrow 66).nextCode.toNat < 4096 ∧
    (257 : Code).toNat = (seededX .xGrow 66).nextCode.toNat ∧
    (seededX .xGrow 66).bound (seededX .xGrow 66).cur ∧ (seededX .xGrow 66).TableSound ∧
    (seededX .xGrow 66).table (seededX .xGrow 66).cur = some [0x41] ∧
    (seededX .xGrow 66).table 257 = none :=
  ⟨by decide, by decide, rfl, ⟨by decide, by decide⟩, seededX_sound _ _, by decide, by decide⟩

theorem witness_XGrow_full :
    ({ small .xGrow with nextCode := 4096 } : State).nextCode.toNat = 4096 := rfl

theorem witness_TableRefinesT :
    Inv (seededX .xEmit 0x41) ∧ TableInv (seededX .xEmit 0x41) ∧
      ∃ t, step (seededX .xEmit 0x41) = .next t ∧ t.phase = .xPush :=
  ⟨seededX_inv, fun _ _ => seededX_sound _ _, _, rfl, rfl⟩

theorem witness_ReconstructEmitsCurrent :
    Inv (seededX .xEmit 0x41) ∧ TableInv (seededX .xEmit 0x41) ∧
      (seededX .xEmit 0x41).phase = .xEmit ∧
      (seededX .xEmit 0x41).table (seededX .xEmit 0x41).cur = some [0x41] :=
  ⟨seededX_inv, fun _ _ => seededX_sound _ _, rfl, by decide⟩

theorem witness_TrieRefinesDictionary :
    Inv startC ∧ startC.phase = .cSeed ∧ ∃ t, engineRun 1 startC = .next t :=
  ⟨startC_inv, rfl, _, rfl⟩

theorem witness_WalkFindsLongestPrefix :
    Inv startC ∧ startC.phase = .cSeed ∧
      ∃ t, engineRun 3 startC = .next t ∧ t.phase = .cEmit :=
  ⟨startC_inv, rfl, _, rfl, rfl⟩

theorem witness_CompressRunDelivers :
    Inv startC ∧ startC.phase = .cSeed ∧ 1 < (compressAll startC.input).codes.length :=
  ⟨startC_inv, rfl, by decide⟩

theorem witness_ExpandRunDelivers :
    Inv startX ∧ startX.phase = .xSeed ∧ startX.source.tail = .ends ∧ startX.srcPos = 0 ∧
      1 ≤ startX.source.codes.length ∧ (decoderAt startX.source.codes 1).cause = .truncated :=
  ⟨startX_inv, rfl, rfl, rfl, by decide, by decide⟩

/-- Points n of "ABABABA": the first and the last. -/
theorem witness_RoundTrip :
    1 < (compressAll [65, 66, 65, 66, 65, 66, 65]).codes.length ∧
      4 < (compressAll [65, 66, 65, 66, 65, 66, 65]).codes.length := by decide

theorem witness_NoCrossRunPersistence :
    Inv startC ∧ startC.phase = .cSeed ∧ ∃ t, engineRun 2 startC = .next t ∧ t.phase = .cWalk :=
  ⟨startC_inv, rfl, _, rfl, rfl⟩

theorem witness_NextCodeWriters :
    ∃ t, step (small .cSeed) = .next t ∧ t.nextCode = 257 := ⟨_, rfl, rfl⟩

theorem witness_SelfrefWriters :
    ∃ t, step (seededX .xResolve 257) = .next t ∧ t.selfref ≠ (seededX .xResolve 257).selfref :=
  ⟨_, rfl, by decide⟩

/-- A reset in a run and an accepted CMD write, each with SELFREF = 1 before. -/
theorem witness_SelfrefWriters_cleared :
    (∃ t, step { small .xPop with selfref := true, turns := [.host .reset] } = .next t ∧
      t.selfref = false) ∧
    (small .done).busy = false ∧
    ∃ t, step { small .done with selfref := true, turns := [.host (.regWrite 0 0x2D)] } = .next t ∧
      t.selfref = false :=
  ⟨⟨_, rfl, rfl⟩, rfl, _, rfl, rfl⟩

theorem witness_SelfrefWriters_set :
    (seededX .xResolve 257).engineTurn.isSome = true ∧ (seededX .xResolve 257).phase = .xResolve ∧
    (seededX .xResolve 257).k.toNat = (seededX .xResolve 257).nextCode.toNat ∧
    (seededX .xResolve 257).k ≠ 0x100 := ⟨rfl, rfl, rfl, by decide⟩

theorem witness_FaultsByPhase_engine :
    ∃ t, engineStep (small .xRead) = .next t ∧ (small .xRead).phase ≠ .fault ∧ t.phase = .fault :=
  ⟨_, rfl, by decide, rfl⟩

theorem witness_FaultsByPhase_cmd :
    ∃ t, hostMove (.regWrite 0 0) (small .idle) = .next t ∧ t.phase = .fault := ⟨_, rfl, rfl⟩

theorem witness_EndOfRun :
    ∃ t, step (small .xClose) = .next t ∧ (small .xClose).busy = true ∧ t.busy = false :=
  ⟨_, rfl, rfl, rfl⟩

theorem witness_EventsByPhase :
    (∃ t, engineStep (small .cEos) = .next t ∧ t.sink = [.code 0x100]) ∧
    ∃ t, hostMove (.regWrite 0 0) (small .cEos) = .next t ∧ t.sink = [.abort] :=
  ⟨⟨_, rfl, rfl⟩, _, rfl, rfl⟩

theorem witness_PassiveHostMoves :
    (small .cWalk).phase.mode = .compressing ∧ (small .xPop).phase.mode = .expanding ∧
    HostMove.regWrite 2 9 ≠ .reset ∧ (∀ v, HostMove.regWrite 2 9 ≠ .regWrite 0 v) ∧
    ∃ t, hostMove (.regWrite 2 9) (small .cWalk) = .next t ∧ t.inLen = 9 :=
  ⟨rfl, rfl, nofun, fun v h => by simp at h, _, rfl, rfl⟩

theorem witness_DecodeEncode :
    (Instr.cwNextHit 0xFFF).fits (.next 4096) = true ∧
    (Instr.cwNextSelfref 0xFFF).fits (.next 4095) = true ∧
    (Instr.cwNextBad 0xFFF).fits (.next 4094) = true ∧
    (Instr.cwFirstLit 0xFF).fits .first = true ∧ (Instr.cwFirstBad 0x101).fits .first = true ∧
    (Instr.cmdInvalid 0).fits .cmdFree = true ∧ (Instr.cmdWhileBusy 0x2D).fits .cmdBusy = true := by
  decide

theorem witness_WireBits :
    0 < (unpack [0x10, 0x00]).length ∧ 23 < 12 * ([0xABC, 0x123] : List Code).length ∧
    12 * ([0xFFF] : List Code).length ≤ 12 ∧ 12 < 8 * (pack [0xFFF]).length := by decide

end Sys2Proof.Tests
end

section
/-! What each part of the invariant asks of a state outside the run it speaks of, and that a state
after reset meets the invariant (70_reset R280). -/

namespace Sys2Proof.Machine

/-- The phases of a compress run (R26, R39). -/
theorem mode_compressing (p : Phase) : p.mode = .compressing ↔
    p = .cSeed ∨ p = .cMatch ∨ p = .cWalk ∨ p = .cEmit ∨ p = .cGrow ∨ p = .cAdv ∨ p = .cEos ∨
      p = .cClose := by
  cases p <;> simp [Phase.mode]

/-- The phases of an expand run (R26, R39). -/
theorem mode_expanding (p : Phase) : p.mode = .expanding ↔
    p = .xSeed ∨ p = .xFirst ∨ p = .xEmit ∨ p = .xPush ∨ p = .xPop ∨ p = .xRead ∨ p = .xResolve ∨
      p = .xGrow ∨ p = .xAdv ∨ p = .xClose := by
  cases p <;> simp [Phase.mode]

theorem Phase.hasCurrent.mode_eq {p : Phase} (h : p.hasCurrent) : p.mode = .expanding := by
  rw [mode_expanding]
  unfold Phase.hasCurrent at h
  tauto

/-- The compress side asks nothing of a state outside a compress run. -/
theorem compressInv_of_mode_ne {s : State} (h : s.phase.mode ≠ .compressing) :
    CompressInv s where
  n_le := fun hm => absurd hm h
  i_le := fun hm => absurd hm h
  byteCount_eq := fun hm => absurd hm h
  nodes := fun hm => absurd hm h
  matched := fun hp => absurd ((mode_compressing _).2 (by tauto)) h
  walking := fun hp => absurd ((mode_compressing _).2 (by tauto)) h
  missed := fun hp => absurd ((mode_compressing _).2 (by tauto)) h
  at_end := fun hp => absurd ((mode_compressing _).2 (by tauto)) h

/-- The expand side asks nothing of a state outside an expand run. -/
theorem expandInv_of_mode_ne {s : State} (h : s.phase.mode ≠ .expanding) : ExpandInv s where
  entries := fun hm => absurd hm h
  current := fun hp => absurd hp.mode_eq h
  pushing := fun hp => absurd (hp ▸ rfl) h
  popping := fun hp => absurd (hp ▸ rfl) h
  resolving := fun hp => absurd (hp ▸ rfl) h
  growing := fun hp => absurd (hp ▸ rfl) h
  advancing := fun hp => absurd (hp ▸ rfl) h

/-- In IDLE the invariant is that of the registers and memories alone: whatever the datapath
registers hold, it asks nothing of them (R21). -/
theorem inv_of_idle {s : State} (hr : RegInv s) (hp : s.phase = .idle) : Inv s where
  reg := hr
  compress := compressInv_of_mode_ne (by rw [hp]; decide)
  expand := expandInv_of_mode_ne (by rw [hp]; decide)

/-- The reset values of the registers are legal and the memories, which list nothing, are in
canonical form; the capacity is the instance's (R9). -/
theorem regInv_resetWith {m : Word} (hm : 0 < m.toNat) : RegInv (State.resetWith m) where
  nMax_pos := hm
  inbuf_wf := Memory.wf_nil _
  node_wf := Memory.wf_nil _
  tab_wf := Memory.wf_nil _
  lifo_wf := Memory.wf_nil _
  nextCode_legal := .inl rfl
  cause_iff := by simp [State.resetWith]
  faultInfo_zero := .inl rfl
  idle_rest := fun _ => ⟨rfl, rfl, rfl, rfl⟩
  seed_entry := fun _ => ⟨rfl, rfl, rfl, rfl⟩
  seeded := by simp [State.resetWith, State.busy, Phase.mode]
  compress_selfref := fun _ => rfl
  assigns_codes := by simp [State.resetWith]
  assigns_len := nofun

theorem inv_resetWith {m : Word} (hm : 0 < m.toNat) : Inv (State.resetWith m) :=
  inv_of_idle (regInv_resetWith hm) rfl

/-- Settles O2: in IDLE only the registers and memories count, and their reset values are legal for
every capacity; `State.reset` is the instance with the capacity of the configuration. -/
theorem resetMeetsInvariant : Obligations.ResetMeetsInvariant := by
  have hcap : 0 < Config.nMaxAtReset.toNat := by decide
  exact ⟨inv_resetWith hcap, fun _ hm => inv_resetWith hm⟩

end Sys2Proof.Machine
end

section
/-! What one step does to each register and memory, field by field, read off the moves that
`Laws/Step` lists; and the statements that need no more than that: the writers of N, NEXT_CODE, SELFREF
and STATE (10_state R26, R29, R30, R31). -/

namespace Sys2Proof.Machine

/-! ## The moves of the engine -/

theorem EngineMove.nMax_eq {s t : State} (hm : EngineMove s t) : t.nMax = s.nMax := by
  cases hm <;> simp

/-- The engine never writes INBUF (R222). -/
theorem EngineMove.inbuf_eq {s t : State} (hm : EngineMove s t) : t.inbuf = s.inbuf := by
  cases hm <;> simp

/-- No phase writes N: it is sampled at the command (R30). -/
theorem EngineMove.n_eq {s t : State} (hm : EngineMove s t) : t.n = s.n := by
  cases hm <;> simp

/-- SELFREF is set by the self-reference of X_RESOLVE, and written by no other phase (R29). -/
theorem EngineMove.selfref_cases {s t : State} (hm : EngineMove s t) :
    t.selfref = s.selfref ∨
      s.phase = .xResolve ∧ s.k.toNat = s.nextCode.toNat ∧ t.selfref = true := by
  cases hm
  case selfref h hne hk => exact .inr ⟨h, hk, rfl⟩
  all_goals exact .inl (by simp)

/-- NEXT_CODE is set by the seed phases and raised by the two growth phases, which bind the old value;
no other phase writes it or binds a code (R31). -/
theorem EngineMove.nextCode_cases {s t : State} (hm : EngineMove s t) :
    (s.phase ≠ .cSeed ∧ s.phase ≠ .xSeed ∧ t.nextCode = s.nextCode ∧ t.assigns = s.assigns) ∨
    ((s.phase = .cSeed ∨ s.phase = .xSeed) ∧ t.nextCode.toNat = 257 ∧ t.assigns = s.assigns) ∨
    ((s.phase = .cGrow ∨ s.phase = .xGrow) ∧ s.nextCode.toNat < 4096 ∧
      t.nextCode.toNat = s.nextCode.toNat + 1 ∧
      ∃ w, t.assigns = s.assigns ++ [(codeOfCounter s.nextCode, w)]) := by
  cases hm
  case cSeed h => exact .inr (.inl ⟨.inl h, rfl, rfl⟩)
  case xSeed h => exact .inr (.inl ⟨.inr h, rfl, rfl⟩)
  case cGrow h hn hc ha => exact .inr (.inr ⟨.inl h, hc, counter_succ hc, _, rfl⟩)
  case xGrow h hc => exact .inr (.inr ⟨.inr h, hc, counter_succ hc, _, rfl⟩)
  case rest h => rcases h with h | h | h <;> exact .inl (by simp [h])
  case truncated h he => rcases h with h | h <;> exact .inl (by simp [h])
  all_goals exact .inl (by simp [*])

/-- A phase faults only in X_FIRST, X_READ and X_RESOLVE, with TRUNCATED or MALFORMED, and records the
offending code only with MALFORMED (R253, R35). -/
theorem EngineMove.fault_cases {s t : State} (hm : EngineMove s t) :
    (t.cause = s.cause ∧ t.faultInfo = s.faultInfo ∧ (t.phase = .fault ↔ s.phase = .fault)) ∨
    ((s.phase = .xFirst ∨ s.phase = .xRead ∨ s.phase = .xResolve) ∧ t.phase = .fault ∧
      (t.cause = .truncated ∧ t.faultInfo = 0 ∨ t.cause = .malformed)) := by
  cases hm
  case truncated h he => exact .inr ⟨by tauto, by simp, .inl (by simp)⟩
  case firstBad h k hk hl => exact .inr ⟨.inl h, by simp, .inr (by simp)⟩
  case resolveBad h hne hk => exact .inr ⟨.inr (.inr h), by simp, .inr (by simp)⟩
  all_goals exact .inl (by simp [*])

/-- A phase keeps STATE, unless it closes the run or faults (R26). -/
theorem EngineMove.mode_cases {s t : State} (hm : EngineMove s t) :
    t.phase.mode = s.phase.mode ∨
    ((s.phase = .cClose ∨ s.phase = .xClose) ∧ t.phase = .done) ∨ t.phase = .fault := by
  cases hm
  case cClose h => exact .inr (.inl ⟨.inl h, rfl⟩)
  case xClose h => exact .inr (.inl ⟨.inr h, rfl⟩)
  case truncated | firstBad | resolveBad => exact .inr (.inr (by simp))
  all_goals exact .inl (by simp [*, Phase.mode])

/-- No phase leads to a seed phase, and IDLE is reached only by resting in it (R39). -/
theorem EngineMove.phase_cases {s t : State} (hm : EngineMove s t) :
    t = s ∨ t.phase ≠ .idle ∧ t.phase ≠ .cSeed ∧ t.phase ≠ .xSeed := by
  cases hm
  case rest => exact .inl rfl
  all_goals exact .inr (by simp)

/-! ## The effects of a CMD write -/

/-- A CMD write while a run is in progress is CMD_BUSY, whatever the word (R232). -/
theorem CmdEffect.aborts {v : Word} {s t : State} (he : CmdEffect v s t) (hb : s.busy = true) :
    t = s.takeFault .cmdBusy 0 := by
  cases he with
  | abort => rfl
  | tooLong hb' | compress hb' | expand hb' | usage hb' => simp [hb] at hb'

/-- Every accepted CMD write clears NEXT_CODE and SELFREF (R230). -/
theorem CmdEffect.clears {v : Word} {s t : State} (he : CmdEffect v s t) (hb : s.busy = false) :
    t.nextCode = 0 ∧ t.selfref = false := by
  cases he
  case abort hb' => simp [hb] at hb'
  all_goals simp

/-! ## One step -/

/-- What a step can do, by who writes the registers of the run: a phase of the engine, a CMD write, a
reset, or none of these; then only IN_LEN, INBUF, the source and the model's logs may change. -/
theorem step_cases {s t : State} (ht : step s = .next t) :
    (∃ ts, s.engineTurn.isSome = true ∧ EngineMove { s with turns := ts } t) ∨
    (∃ v ts, s.turns = .host (.regWrite 0 v) :: ts ∧ CmdEffect v { s with turns := ts } t) ∨
    (∃ ts, s.turns = .host .reset :: ts ∧ t = State.assertReset { s with turns := ts }) ∨
    t = { s with
      inLen := t.inLen, inbuf := t.inbuf, source := t.source, srcPos := t.srcPos
      replies := t.replies, draws := t.draws, turns := t.turns } := by
  cases step_moves ht with
  | engine u _ hu hm => exact .inl ⟨u.turns, by simp [hu], engineTurn_eq hu ▸ hm⟩
  | waited ts => exact .inr (.inr (.inr rfl))
  | host m ts _ hts he =>
    cases he with
    | cmd v hv _ hc => exact .inr (.inl ⟨v, ts, hv ▸ hts, hc⟩)
    | reset hr => exact .inr (.inr (.inl ⟨ts, hr ▸ hts, rfl⟩))
    | regRead | inLen | ignored | bufRead | dropped | bufWrite | attach =>
      exact .inr (.inr (.inr rfl))

/-! ## The writers of N, NEXT_CODE, SELFREF and STATE -/

/-- Settles O10: the write stores and is read back by the register's own equation; of the steps, only
the effect `compress` of a CMD write and reset write N. -/
theorem inLenSampling : Obligations.InLenSampling := by
  refine ⟨fun s v => ⟨rfl, ?_⟩, fun s t ht hn => ?_⟩
  · unfold State.readReg
    split <;> rfl
  rcases step_cases ht with ⟨ts, -, hm⟩ | ⟨v, ts, hts, he⟩ | ⟨ts, hts, -⟩ | h
  · exact absurd hm.n_eq hn
  · left
    cases he with
    | compress hb hv hle => exact ⟨ts, by rw [hts, hv]; rfl, hb, rfl, rfl⟩
    | abort | tooLong | expand | usage => simp at hn
  · exact .inr ⟨ts, hts⟩
  · exact absurd (by rw [h]) hn

/-- Settles O50: by what each move does to NEXT_CODE; a growth phase binds the old value, which is a
code since it is below 4096. -/
theorem nextCodeWriters : Obligations.NextCodeWriters := by
  intro s t ht
  rcases step_cases ht with ⟨ts, hu, hm⟩ | ⟨v, ts, hts, he⟩ | ⟨ts, hts, rfl⟩ | h
  · rcases hm.nextCode_cases with ⟨-, -, hn, ha⟩ | ⟨hp, hn, -⟩ | ⟨hp, hc, hn, w, ha⟩
    · exact .inl ⟨hn, fun _ => ha⟩
    · exact .inr (.inr (.inr (.inl ⟨hu, hp, hn⟩)))
    · exact .inr (.inr (.inr (.inr ⟨hu, hp, hc, hn, _, w, codeOfCounter_toNat hc, ha⟩)))
  · cases hb : s.busy with
    | true => rw [he.aborts hb]; exact .inl (by simp)
    | false => exact .inr (.inl ⟨v, ts, hts, rfl, (he.clears hb).1⟩)
  · exact .inr (.inr (.inl ⟨ts, hts, rfl⟩))
  · rw [h]; exact .inl ⟨rfl, fun _ => rfl⟩

/-- The writers of SELFREF (R29): an accepted CMD write and reset clear it, a self-reference sets it. -/
theorem step_selfref_cases {s t : State} (ht : step s = .next t) (hne : t.selfref ≠ s.selfref) :
    (∃ v ts, s.turns = .host (.regWrite 0 v) :: ts ∧ s.busy = false ∧ t.selfref = false) ∨
    (∃ ts, s.turns = .host .reset :: ts ∧ t.selfref = false) ∨
    (s.engineTurn.isSome = true ∧ s.phase = .xResolve ∧ s.k.toNat = s.nextCode.toNat ∧
      t.selfref = true) := by
  rcases step_cases ht with ⟨ts, hu, hm⟩ | ⟨v, ts, hts, he⟩ | ⟨ts, hts, rfl⟩ | h
  · exact hm.selfref_cases.elim (absurd · hne) fun hs => .inr (.inr ⟨hu, hs⟩)
  · cases hb : s.busy with
    | true => rw [he.aborts hb] at hne; simp at hne
    | false => exact .inl ⟨v, ts, hts, rfl, (he.clears hb).2⟩
  · exact .inr (.inl ⟨ts, hts, rfl⟩)
  · exact absurd (by rw [h]) hne

/-- A step whose turn is a host transaction is that transaction (R292). -/
theorem step_host {s : State} {m : HostMove} {ts : List Turn} (h : s.turns = .host m :: ts) :
    step s = hostMove m { s with turns := ts } := by
  simp only [step, takeTurn, h]

/-- A CMD write that answers a next state has one of its effects. -/
theorem hostMove_cmd_effect {v : Word} {s t : State} (ht : hostMove (.regWrite 0 v) s = .next t) :
    CmdEffect v s t := by
  obtain ⟨u, hu, he⟩ := cmd_effect v s
  have htu : Host.Outcome.next u = .next t := hu.symm.trans ht
  cases htu
  exact he

/-- An engine step of X_RESOLVE on a code equal to NEXT_CODE sets SELFREF (R200). -/
theorem EngineMove.selfref_set {s t : State} (hm : EngineMove s t) (hp : s.phase = .xResolve)
    (hk : s.k.toNat = s.nextCode.toNat) (hne : s.k ≠ Config.eos) : t.selfref = true := by
  cases hm
  case selfref => rfl
  case resolveEos he => exact absurd he hne
  case hit hlt => omega
  case resolveBad hlt => omega
  case truncated h _ => rcases h with h | h <;> simp [hp] at h
  case rest h => simp [hp] at h
  all_goals simp_all only [reduceCtorEq]

/-- Settles O51: the writers are `step_selfref_cases`; that each of them writes is the effect of its
own transaction or phase. -/
theorem selfrefWriters : Obligations.SelfrefWriters := by
  refine ⟨fun s t ht => step_selfref_cases ht, fun s t v ts hts ht hb => ?_,
    fun s t ts hts ht => ?_, fun s t hu hp hk hne ht => ?_⟩
  · rw [step_host hts] at ht
    exact ((hostMove_cmd_effect ht).clears hb).2
  · rw [step_host hts] at ht
    cases ht
    rfl
  · obtain ⟨u, hu⟩ := Option.isSome_iff_exists.1 hu
    have hm := engineStep_moves (step_engineTurn hu ▸ ht)
    rw [engineTurn_eq hu] at hm
    exact hm.selfref_set hp hk hne

/-- The effect of a CMD write on STATE (R230 to R233). -/
theorem CmdEffect.mode_cases {v : Word} {s t : State} (he : CmdEffect v s t) :
    (s.busy = false ∧
      ((v = 0x2D ∧ s.inLen.toNat ≤ s.nMax.toNat ∧ t.phase.mode = .compressing) ∨
       (v = 0x2B ∧ t.phase.mode = .expanding) ∨
       (v = 0x2D ∧ s.nMax.toNat < s.inLen.toNat ∧ t.phase.mode = .fault ∧ t.cause = .length) ∨
       (v ≠ 0x2D ∧ v ≠ 0x2B ∧ t.phase.mode = .fault ∧ t.cause = .usage))) ∨
    (s.busy = true ∧ t.phase.mode = .fault ∧ t.cause = .cmdBusy) := by
  cases he with
  | abort hb => exact .inr ⟨hb, by simp [Phase.mode], by simp⟩
  | tooLong hb hv hn => exact .inl ⟨hb, .inr (.inr (.inl ⟨hv, hn, by simp [Phase.mode], by simp⟩))⟩
  | compress hb hv hn => exact .inl ⟨hb, .inl ⟨hv, Nat.le_of_not_lt hn, rfl⟩⟩
  | expand hb hv => exact .inl ⟨hb, .inr (.inl ⟨hv, rfl⟩)⟩
  | usage hb h1 h2 => exact .inl ⟨hb, .inr (.inr (.inr ⟨h1, h2, by simp [Phase.mode], by simp⟩))⟩

/-- Settles O6: STATE by the phase is the table of the phases; of the steps that change it, those of
the engine close the run or fault, and those of the host are CMD writes and reset. -/
theorem stateTransitions : Obligations.StateTransitions := by
  refine ⟨fun p => ⟨mode_idle p, mode_compressing p, mode_expanding p, mode_done p, mode_fault p⟩,
    fun s t ht hne => ?_⟩
  rcases step_cases ht with ⟨ts, hu, hm⟩ | ⟨v, ts, hts, he⟩ | ⟨ts, hts, rfl⟩ | h
  · rcases hm.fault_cases with ⟨-, -, hf⟩ | ⟨hp, hf, hc⟩
    · rcases hm.mode_cases with hsame | ⟨hp, hd⟩ | hft
      · exact absurd hsame hne
      · exact .inr (.inr (.inr (.inl ⟨hu, hp, by rw [hd]; rfl⟩)))
      · exact absurd (by rw [hft, hf.1 hft]) hne
    · exact .inr (.inr (.inr (.inr ⟨hu, hp, by rw [hf]; rfl, hc.imp And.left id⟩)))
  · rcases he.mode_cases with ⟨hb, hc⟩ | hc
    · exact .inr (.inl ⟨v, ts, hts, hb, hc⟩)
    · exact .inr (.inr (.inl ⟨v, ts, hts, hc⟩))
  · exact .inl ⟨ts, hts, rfl⟩
  · exact absurd (by rw [h]) hne

end Sys2Proof.Machine
end

section
/-! What the register port reads (44_host_interface R221): the fields of STATUS (10_state R25), and each
index at rest and mid-run (R22 to R36). -/

namespace Sys2Proof.Machine

/-! ## The fields of STATUS -/

/-- STATUS bits [31:3], the fields above STATE (R25). -/
def State.statusHigh (s : State) : BitVec (20 + 4 + 2 + 1 + 1 + 1) :=
  (0 : BitVec 20) ++ s.cause.bits ++ (0 : BitVec 2) ++ BitVec.ofBool s.selfref ++
    BitVec.ofBool s.irq ++ BitVec.ofBool s.exhausted

theorem statusWord_eq_append (s : State) :
    s.statusWord = (s.statusHigh ++ s.phase.mode.bits : BitVec (20 + 4 + 2 + 1 + 1 + 1 + 3)) := rfl

theorem extractLsb'_statusWord_low (s : State) :
    s.statusWord.extractLsb' 0 3 = s.phase.mode.bits := by
  rw [statusWord_eq_append, BitVec.extractLsb'_append_eq_of_add_le (by decide),
    BitVec.extractLsb'_eq_self]

theorem extractLsb'_statusWord_high (s : State) (start len : Nat) :
    s.statusWord.extractLsb' (3 + start) len = s.statusHigh.extractLsb' start len := by
  rw [statusWord_eq_append, BitVec.extractLsb'_append_eq_of_le (by omega), Nat.add_sub_cancel_left]

theorem getLsbD_statusWord_high (s : State) (i : Nat) :
    s.statusWord.getLsbD (3 + i) = s.statusHigh.getLsbD i := by
  rw [statusWord_eq_append, BitVec.getLsbD_append, if_neg (by omega), Nat.add_sub_cancel_left]

theorem statusWord_exhausted (s : State) : s.statusWord.getLsbD 3 = s.exhausted := by
  rw [getLsbD_statusWord_high s 0]
  simp only [State.statusHigh, BitVec.getLsbD_append, BitVec.getLsbD_ofBool]
  rfl

theorem statusWord_irq (s : State) : s.statusWord.getLsbD 4 = s.irq := by
  rw [getLsbD_statusWord_high s 1]
  simp only [State.statusHigh, BitVec.getLsbD_append, BitVec.getLsbD_ofBool]
  rfl

theorem statusWord_selfref (s : State) : s.statusWord.getLsbD 5 = s.selfref := by
  rw [getLsbD_statusWord_high s 2]
  simp only [State.statusHigh, BitVec.getLsbD_append, BitVec.getLsbD_ofBool]
  rfl

theorem statusWord_zeros_7_6 (s : State) : s.statusWord.extractLsb' 6 2 = 0 := by
  rw [extractLsb'_statusWord_high s 3]
  simp (disch := decide) only [State.statusHigh, BitVec.extractLsb'_append_eq_of_le,
    BitVec.extractLsb'_append_eq_of_add_le]
  rfl

theorem statusWord_cause (s : State) : s.statusWord.extractLsb' 8 4 = s.cause.bits := by
  rw [extractLsb'_statusWord_high s 5]
  simp (disch := decide) only [State.statusHigh, BitVec.extractLsb'_append_eq_of_le,
    BitVec.extractLsb'_append_eq_of_add_le]
  exact BitVec.extractLsb'_eq_self

theorem statusWord_zeros_31_12 (s : State) : s.statusWord.extractLsb' 12 20 = 0 := by
  rw [extractLsb'_statusWord_high s 9]
  simp (disch := decide) only [State.statusHigh, BitVec.extractLsb'_append_eq_of_le]
  rfl

theorem exhausted_eq (s : State) : s.exhausted = decide (s.nextCode.toNat = 4096) := by
  simp [State.exhausted, Bool.beq_eq_decide_eq, ← BitVec.toNat_inj]

/-- The level of irq (R263). -/
theorem irq_iff (s : State) : s.irq = true ↔ s.phase.mode = .done ∨ s.phase.mode = .fault := by
  rw [State.irq, ended_iff, mode_done, mode_fault]

/-! ## The register reads -/

/-- A register read adds its answer to the log and, mid-run, uses up a free value (R67). -/
theorem hostMove_regRead (s : State) (idx : RegIdx) : hostMove (.regRead idx) s = .next { s with
    replies := s.replies ++ [.reg idx (s.readReg idx)]
    draws := if s.busy then s.draws + 1 else s.draws } := rfl

theorem readReg_of_not_busy {s : State} (hb : s.busy = false) (idx : RegIdx) :
    s.readReg idx = s.regValue idx := by
  simp [State.readReg, hb]

theorem readReg_of_busy {s : State} (hb : s.busy = true) (idx : RegIdx) :
    s.readReg idx = s.regMidRun (Config.freeRead s.draws) idx := by
  simp [State.readReg, hb]

/-- A reserved index reads 0, mid-run too (R36). -/
theorem readReg_reserved (s : State) {idx : RegIdx} (h : 7 ≤ idx.toNat) : s.readReg idx = 0 := by
  obtain ⟨n, hn⟩ := Nat.exists_eq_add_of_le' h
  unfold State.readReg State.regMidRun State.regValue
  rw [hn]
  split <;> rfl

/-- The STATE field of a STATUS read mid-run is the definite one (R33). -/
theorem statusMidRun_low (s : State) (free : Word) :
    (s.statusMidRun free).extractLsb' 0 3 = s.phase.mode.bits :=
  (BitVec.extractLsb'_append_eq_of_add_le (by decide)).trans BitVec.extractLsb'_eq_self

/-- The fields above STATE of a STATUS read mid-run are those of the free value (R33). -/
theorem statusMidRun_high (s : State) (free : Word) :
    (s.statusMidRun free).extractLsb' 3 29 = free.extractLsb' 3 29 :=
  (BitVec.extractLsb'_append_eq_of_le (by decide)).trans BitVec.extractLsb'_eq_self

theorem mode_bits_of_busy {s : State} (hb : s.busy = true) :
    s.phase.mode.bits = 1 ∨ s.phase.mode.bits = 2 :=
  ((busy_iff s).1 hb).imp (fun h => by rw [h]; rfl) (fun h => by rw [h]; rfl)

/-! ## The statements -/

/-- Settles O5: the fields are the parts STATUS is put together from; the write is ignored, and the
read is that of every register. -/
theorem statusWordLayout : Obligations.StatusWordLayout := by
  refine ⟨fun s => ⟨extractLsb'_statusWord_low s, (statusWord_exhausted s).trans (exhausted_eq s),
    statusWord_irq s, irq_iff s, statusWord_selfref s, statusWord_zeros_7_6 s, statusWord_cause s,
    statusWord_zeros_31_12 s⟩, fun s v => rfl, fun s => ⟨_, hostMove_regRead s 1, rfl⟩, ?_⟩
  decide

/-- Settles O7: with no run in progress a read is the register itself, and draws no free value. -/
theorem quiescentRegisterReads : Obligations.QuiescentRegisterReads := by
  intro s hb
  have hval := readReg_of_not_busy hb
  refine ⟨hval 0, hval 1, hval 2, ?_, hval 4, hval 5, ?_, fun idx => readReg_reserved s,
    fun idx => ?_⟩
  · rw [hval]; exact BitVec.toNat_setWidth_of_le (by decide)
  · rw [hval]; exact BitVec.toNat_setWidth_of_le (by decide)
  · rw [hostMove_regRead, hb]; rfl

/-- Settles O8: mid-run a read answers the free value of the current draw, but for STATE and the
registers that R33 does not name; the next read draws another. -/
theorem midRunRegisterReads : Obligations.MidRunRegisterReads := by
  intro s hb
  have hval := readReg_of_busy hb
  have hstatus : s.readReg 1 = s.statusMidRun (Config.freeRead s.draws) := hval 1
  have hstate : (s.readReg 1).extractLsb' 0 3 = s.phase.mode.bits := by
    rw [hstatus, statusMidRun_low]
  refine ⟨hstate, hstate ▸ mode_bits_of_busy hb, by rw [hstatus, statusMidRun_high], hval 3, hval 4,
    hval 5, hval 6, hval 0, hval 2, fun idx => readReg_reserved s, fun idx => ?_⟩
  rw [hostMove_regRead, hb]
  rfl

end Sys2Proof.Machine
end

section
/-! The invariant under the moves of the host: a register or buffer access, a CMD write, a reset; and
the part of it about the registers and memories under the moves of the engine. -/

namespace Sys2Proof.Machine

/-! ## States with no run in progress, and fields the invariant does not read -/

/-- With no run in progress the invariant is that of the registers and memories alone. -/
theorem inv_of_not_busy {s : State} (hr : RegInv s) (hb : s.busy = false) : Inv s where
  reg := hr
  compress := compressInv_of_mode_ne fun h => by simp [State.busy, h] at hb
  expand := expandInv_of_mode_ne fun h => by simp [State.busy, h] at hb

/-- The invariant does not speak of IN_LEN, the source, the replies, the turns and the draws, and of
INBUF it asks the canonical form only. -/
theorem Inv.passive {s : State} (h : Inv s) {buf : Memory Byte}
    (hbuf : Memory.wf s.nMax.toNat buf = true) (len : Word) (src : CodeSource) (pos : Nat)
    (rs : List Reply) (ts : List Turn) (d : Nat) :
    Inv { s with
      inLen := len, inbuf := buf, source := src, srcPos := pos, replies := rs, turns := ts
      draws := d } where
  reg := { h.reg with inbuf_wf := hbuf }
  compress := { h.compress with matched := fun hp => { h.compress.matched hp with } }
  expand := { h.expand with }

/-! ## Faults, commands, reset -/

/-- Fault entry keeps what holds of the registers and memories: a cause is recorded, and an offending
code only with MALFORMED (R252). -/
theorem regInv_takeFault {s : State} (h : RegInv s) {c : Cause} {x : Code} (hc : c ≠ .none)
    (hx : x = 0 ∨ c = .malformed) : RegInv (s.takeFault c x) where
  nMax_pos := by simpa using h.nMax_pos
  inbuf_wf := by simpa using h.inbuf_wf
  node_wf := by simpa using h.node_wf
  tab_wf := by simpa using h.tab_wf
  lifo_wf := by simpa using h.lifo_wf
  nextCode_legal := by simpa using h.nextCode_legal
  cause_iff := by simp [hc]
  faultInfo_zero := by simpa using hx
  idle_rest := by simp
  seed_entry := by simp
  seeded := by simp [State.busy, Phase.mode]
  compress_selfref := by simp [Phase.mode]
  assigns_codes := by simpa using h.assigns_codes
  assigns_len := by simpa using h.assigns_len

theorem inv_takeFault {s : State} (h : RegInv s) {c : Cause} {x : Code} (hc : c ≠ .none)
    (hx : x = 0 ∨ c = .malformed) : Inv (s.takeFault c x) :=
  inv_of_not_busy (regInv_takeFault h hc hx) (by simp [State.busy, Phase.mode])

/-- After the common clearing of R230 the registers are those of a seed phase or of FAULT (R286). -/
theorem regInv_acceptCmd {s : State} (h : RegInv s) {p : Phase} {c : Cause} (n : Word) (pos : Nat)
    (hp : p = .cSeed ∨ p = .xSeed ∨ p = .fault) (hc : c ≠ .none ↔ p = .fault) :
    RegInv { s.acceptCmd with n := n, srcPos := pos, cause := c, phase := p } where
  nMax_pos := h.nMax_pos
  inbuf_wf := h.inbuf_wf
  node_wf := h.node_wf
  tab_wf := h.tab_wf
  lifo_wf := h.lifo_wf
  nextCode_legal := .inl rfl
  cause_iff := hc
  faultInfo_zero := .inl rfl
  idle_rest := fun _ => ⟨rfl, rfl, rfl, rfl⟩
  seed_entry := fun _ => ⟨rfl, rfl, rfl, rfl⟩
  seeded := by rcases hp with rfl | rfl | rfl <;> simp [State.busy, Phase.mode]
  compress_selfref := fun _ => rfl
  assigns_codes := by simp
  assigns_len := by simp

/-- A refused command is a fault of the cleared registers (R231, R233). -/
theorem inv_acceptCmd_takeFault {s : State} (h : RegInv s) (hb : s.busy = false) {c : Cause}
    (hc : c ≠ .none) : Inv (s.acceptCmd.takeFault c 0) := by
  rw [takeFault_quiet (by simpa using hb)]
  exact inv_of_not_busy (regInv_acceptCmd h _ _ (.inr (.inr rfl)) (by simpa using hc)) rfl

/-- A COMPRESS that starts has N within INBUF (R69, R233); the rest of the compress side begins after
C_SEED. -/
theorem inv_startCompress {s : State} (h : RegInv s) (hn : ¬ s.nMax < s.inLen) :
    Inv { s.acceptCmd with n := s.inLen, phase := .cSeed } where
  reg := regInv_acceptCmd h _ s.srcPos (.inl rfl) (by simp)
  compress := {
    n_le := fun _ => Nat.le_of_not_lt hn
    i_le := fun _ hp => absurd rfl hp
    byteCount_eq := fun _ hp => absurd rfl hp
    nodes := fun _ hp => absurd rfl hp
    matched := by simp
    walking := by simp
    missed := by simp
    at_end := by simp }
  expand := expandInv_of_mode_ne (by simp [Phase.mode])

/-- The expand side begins after X_SEED. -/
theorem inv_startExpand {s : State} (h : RegInv s) :
    Inv { s.acceptCmd with srcPos := 0, phase := .xSeed } where
  reg := regInv_acceptCmd h s.n _ (.inr (.inl rfl)) (by simp)
  compress := compressInv_of_mode_ne (by simp [Phase.mode])
  expand := {
    entries := fun _ hp => absurd rfl hp
    current := by simp [Phase.hasCurrent]
    pushing := by simp
    popping := by simp
    resolving := by simp
    growing := by simp
    advancing := by simp }

theorem inv_assertReset {s : State} (h : RegInv s) : Inv s.assertReset :=
  inv_of_idle { regInv_resetWith h.nMax_pos with } rfl

/-- A CMD write keeps the invariant. -/
theorem CmdEffect.inv {v : Word} {s t : State} (he : CmdEffect v s t) (h : Inv s) : Inv t := by
  cases he with
  | abort => exact inv_takeFault h.reg (by decide) (.inl rfl)
  | tooLong hb => exact inv_acceptCmd_takeFault h.reg hb (by decide)
  | compress _ _ hn => exact inv_startCompress h.reg hn
  | expand => exact inv_startExpand h.reg
  | usage hb => exact inv_acceptCmd_takeFault h.reg hb (by decide)

/-- A host transaction keeps the invariant; an INBUF write is inside the capacity (R63). -/
theorem HostEffect.inv {m : HostMove} {s t : State} (he : HostEffect m s t) (h : Inv s) :
    Inv t := by
  cases he with
  | cmd v _ _ hc => exact hc.inv h
  | reset => exact inv_assertReset h.reg
  | ignored | dropped => exact h
  | bufWrite a b _ _ ha =>
    exact h.passive (Memory.wf_write h.reg.inbuf_wf ha b) s.inLen s.source s.srcPos s.replies
      s.turns s.draws
  | regRead | bufRead | inLen | attach => exact h.passive h.reg.inbuf_wf _ _ _ _ s.turns _

/-! ## The registers and memories under the moves of the engine -/

theorem EngineMove.node_wf {s t : State} (hm : EngineMove s t)
    (h : Memory.wf Config.arenaSize s.node = true) : Memory.wf Config.arenaSize t.node = true := by
  cases hm
  case cSeed => exact Memory.wf_seed h (by decide) _
  case cGrow => exact Memory.wf_write (Memory.wf_write h (BitVec.isLt _) _) (BitVec.isLt _) _
  all_goals simpa using h

theorem EngineMove.tab_wf {s t : State} (hm : EngineMove s t)
    (h : Memory.wf Config.arenaSize s.tab = true) : Memory.wf Config.arenaSize t.tab = true := by
  cases hm
  case xSeed => exact Memory.wf_seed h (by decide) _
  case xGrow => exact Memory.wf_write h (BitVec.isLt _) _
  all_goals simpa using h

theorem EngineMove.lifo_wf {s t : State} (hm : EngineMove s t)
    (h : Memory.wf Config.maxSeqLen s.lifo = true) :
    Memory.wf Config.maxSeqLen t.lifo = true := by
  cases hm
  case push hs => exact Memory.wf_write h hs _
  all_goals simpa using h

/-- A growth phase is past the seed phase of its run, so the codes have begun (R31). -/
theorem RegInv.seeded_of_grow {s : State} (h : RegInv s) (hp : s.phase = .cGrow ∨ s.phase = .xGrow) :
    257 ≤ s.nextCode.toNat :=
  h.seeded (.inl (by rcases hp with hp | hp <;> simp [State.busy, hp, Phase.mode]))

theorem EngineMove.nextCode_legal {s t : State} (hm : EngineMove s t) (h : RegInv s) :
    t.nextCode = 0 ∨ 257 ≤ t.nextCode.toNat ∧ t.nextCode.toNat ≤ 4096 := by
  rcases hm.nextCode_cases with ⟨-, -, hn, -⟩ | ⟨-, hn, -⟩ | ⟨hp, hc, hn, -⟩
  · exact hn ▸ h.nextCode_legal
  · omega
  · have := h.seeded_of_grow hp
    omega

theorem EngineMove.cause_iff {s t : State} (hm : EngineMove s t) (h : RegInv s) :
    t.cause ≠ .none ↔ t.phase = .fault := by
  rcases hm.fault_cases with ⟨hc, -, hp⟩ | ⟨-, hp, ⟨hc, -⟩ | hc⟩
  · rw [hc, hp, h.cause_iff]
  · simp [hc, hp]
  · simp [hc, hp]

theorem EngineMove.faultInfo_zero {s t : State} (hm : EngineMove s t) (h : RegInv s) :
    t.faultInfo = 0 ∨ t.cause = .malformed := by
  rcases hm.fault_cases with ⟨hc, hi, -⟩ | ⟨-, -, ⟨-, hi⟩ | hc⟩
  · rw [hc, hi]; exact h.faultInfo_zero
  · exact .inl hi
  · exact .inr hc

/-- A run past its seed phase, or just ended, was in progress before the move, or had ended. -/
theorem EngineMove.busy_or_done {s t : State} (hm : EngineMove s t)
    (ht : t.busy = true ∨ t.phase = .done) : s.busy = true ∨ s.phase = .done := by
  rw [busy_iff, ← mode_done] at ht ⊢
  rcases hm.mode_cases with hmode | ⟨hp | hp, -⟩ | hp
  · rwa [← hmode]
  · simp [hp, Phase.mode]
  · simp [hp, Phase.mode]
  · simp [hp, Phase.mode] at ht

theorem EngineMove.seeded {s t : State} (hm : EngineMove s t) (h : RegInv s)
    (ht : t.busy = true ∨ t.phase = .done) : 257 ≤ t.nextCode.toNat := by
  rcases hm.nextCode_cases with ⟨h1, h2, hn, -⟩ | ⟨-, hn, -⟩ | ⟨hp, -, hn, -⟩
  · rw [hn]
    exact h.seeded ((hm.busy_or_done ht).imp (fun hb => ⟨hb, h1, h2⟩) id)
  · omega
  · have := h.seeded_of_grow hp
    omega

theorem EngineMove.compress_selfref {s t : State} (hm : EngineMove s t) (h : RegInv s)
    (ht : t.phase.mode = .compressing) : t.selfref = false := by
  have hs : s.phase.mode = .compressing := by
    rcases hm.mode_cases with hmode | ⟨-, hp⟩ | hp
    · rw [← hmode, ht]
    · simp [hp, Phase.mode] at ht
    · simp [hp, Phase.mode] at ht
  rcases hm.selfref_cases with hr | ⟨hp, -⟩
  · rw [hr, h.compress_selfref hs]
  · simp [hp, Phase.mode] at hs

/-- A growth phase binds the next code in order; a seed phase finds nothing bound (R43, R173). -/
theorem EngineMove.assigns_codes {s t : State} (hm : EngineMove s t) (h : RegInv s) :
    t.assigns.map (fun x => x.1.toNat) = List.range' 257 (t.nextCode.toNat - 257) := by
  rcases hm.nextCode_cases with ⟨-, -, hn, ha⟩ | ⟨hp, hn, ha⟩ | ⟨hp, hc, hn, w, ha⟩
  · rw [ha, hn, h.assigns_codes]
  · obtain ⟨h0, -⟩ := h.seed_entry hp
    rw [ha, hn, h.assigns_codes, h0]
    rfl
  · have hlow := h.seeded_of_grow hp
    rw [ha, hn, List.map_append, h.assigns_codes, Nat.sub_add_comm hlow, List.range'_1_concat,
      Nat.add_sub_cancel' hlow]
    simp [codeOfCounter_toNat hc]

/-- The registers and memories after a move of the engine, but for the lengths of the sequences learned,
which rest on the compress and the expand side. -/
theorem EngineMove.regInv {s t : State} (hm : EngineMove s t) (h : RegInv s)
    (hlen : ∀ x ∈ t.assigns, 2 ≤ x.2.length ∧ x.2.length ≤ x.1.toNat - 255) : RegInv t where
  nMax_pos := hm.nMax_eq ▸ h.nMax_pos
  inbuf_wf := by rw [hm.nMax_eq, hm.inbuf_eq]; exact h.inbuf_wf
  node_wf := hm.node_wf h.node_wf
  tab_wf := hm.tab_wf h.tab_wf
  lifo_wf := hm.lifo_wf h.lifo_wf
  nextCode_legal := hm.nextCode_legal h
  cause_iff := hm.cause_iff h
  faultInfo_zero := hm.faultInfo_zero h
  idle_rest := fun hp => by
    rcases hm.phase_cases with rfl | ⟨hi, -, -⟩
    · exact h.idle_rest hp
    · exact absurd hp hi
  seed_entry := fun hp => by
    rcases hm.phase_cases with rfl | ⟨-, hc, hx⟩
    · exact h.seed_entry hp
    · exact (hp.elim hc hx).elim
  seeded := fun hp => hm.seeded h (hp.imp And.left id)
  compress_selfref := hm.compress_selfref h
  assigns_codes := hm.assigns_codes h
  assigns_len := hlen

end Sys2Proof.Machine
end

section
/-! The compress side of the invariant under the moves of the engine: the walk of the trie (R115, R116)
and the insertion (R117). -/

namespace Sys2Proof.Machine

/-! ## Bound codes -/

theorem bound_iff (s : State) (k : Code) :
    s.bound k ↔ k.toNat ≠ 256 ∧ k.toNat < s.nextCode.toNat := by
  rw [State.bound, ne_eos_iff]

theorem State.bound.mono {s t : State} {k : Code} (h : s.bound k)
    (hn : s.nextCode.toNat ≤ t.nextCode.toNat) : t.bound k :=
  ⟨h.1, Nat.lt_of_lt_of_le h.2 hn⟩

theorem State.bound.ne_nil {s : State} {k : Code} (h : s.bound k) : k ≠ Config.nil := h.1

/-- The seeded codes are bound as soon as the codes have begun (R101, R131). -/
theorem bound_of_lt {s : State} {k : Code} (hk : k.toNat < 256) (hn : 257 ≤ s.nextCode.toNat) :
    s.bound k :=
  (bound_iff s k).2 (by omega)

/-- One more code is bound, by a growth phase: the old ones are, and the new one. -/
theorem bound_succ_iff {s t : State} (hc : s.nextCode.toNat < 4096) (hlow : 257 ≤ s.nextCode.toNat)
    (hn : t.nextCode.toNat = s.nextCode.toNat + 1) (k : Code) :
    t.bound k ↔ k = codeOfCounter s.nextCode ∨ s.bound k := by
  rw [bound_iff, bound_iff, ← BitVec.toNat_inj, codeOfCounter_toNat hc, hn]
  omega

theorem bound_codeOfCounter_ne {s : State} (hc : s.nextCode.toNat < 4096) {k : Code}
    (h : s.bound k) : k ≠ codeOfCounter s.nextCode := by
  rw [Ne, ← BitVec.toNat_inj, codeOfCounter_toNat hc]
  exact Nat.ne_of_lt h.2

/-- The length bound of a bound code is below the one of the next code (R104, R135). -/
theorem lenBound_lt {s : State} {k : Code} (h : s.bound k) (hlow : 257 ≤ s.nextCode.toNat) :
    lenBound k < s.nextCode.toNat - 255 := by
  have := h.2
  unfold lenBound
  split <;> omega

/-- The length bound rises from a bound code to every later learned code. -/
theorem lenBound_lt_lenBound {k p : Code} (hp : 257 ≤ p.toNat) (hk : k.toNat < p.toNat) :
    lenBound k < lenBound p := by
  unfold lenBound
  split <;> split <;> omega

theorem lenBound_le (k : Code) : lenBound k ≤ 3840 := by
  have := k.isLt
  unfold lenBound
  split <;> omega

/-! ## The parts of the compress side -/

/-- What holds in every phase of a compress run past C_SEED. -/
structure CompressBase (s : State) : Prop where
  n_le : s.n.toNat ≤ s.nMax.toNat
  i_le : s.i.toNat ≤ s.n.toNat
  byteCount_eq : s.byteCount = s.i
  nodes : ∀ k, s.bound k → s.nodeOk k

theorem CompressInv.base {s : State} (h : CompressInv s) (hm : s.phase.mode = .compressing)
    (hp : s.phase ≠ .cSeed) : CompressBase s :=
  ⟨h.n_le hm, h.i_le hm hp, h.byteCount_eq hm hp, h.nodes hm hp⟩

/-- The common part does not speak of the phase, the sink and CODE_COUNT. -/
theorem CompressBase.passive {s : State} (h : CompressBase s) (p : Phase) (es : List Event)
    (count : Word) : CompressBase { s with phase := p, sink := es, codeCount := count } :=
  ⟨h.n_le, h.i_le, h.byteCount_eq, h.nodes⟩

theorem MatchInv.passive {s : State} (h : MatchInv s) (p : Phase) (es : List Event) (count : Word) :
    MatchInv { s with phase := p, sink := es, codeCount := count } := { h with }

/-- The common part in a phase past C_SEED, where the codes have begun (R31). -/
theorem Inv.compressBase {s : State} (h : Inv s)
    (hp : s.phase = .cMatch ∨ s.phase = .cWalk ∨ s.phase = .cEmit ∨ s.phase = .cGrow ∨
      s.phase = .cAdv ∨ s.phase = .cEos) : CompressBase s ∧ 257 ≤ s.nextCode.toNat := by
  have hmode : s.phase.mode = .compressing := (mode_compressing _).2 (by tauto)
  have hc : s.phase ≠ .cSeed := by rcases hp with e | e | e | e | e | e <;> simp [e]
  have hx : s.phase ≠ .xSeed := by rcases hp with e | e | e | e | e | e <;> simp [e]
  exact ⟨h.compress.base hmode hc, h.reg.seeded (.inl ⟨(busy_iff s).2 (.inl hmode), hc, hx⟩)⟩

/-- The compress side from its common part and from what the phase adds to it; what the phase does not
speak of is filled in. -/
theorem CompressBase.inv {s : State} (h : CompressBase s)
    (matched : s.phase = .cWalk ∨ s.phase = .cEmit ∨ s.phase = .cGrow ∨ s.phase = .cAdv →
      MatchInv s := by simp)
    (walking : s.phase = .cWalk →
      s.j.toNat = s.i.toNat + s.bestLen.toNat ∧ s.p = linkOf (s.nodeAt s.missNode) s.missDir := by simp)
    (missed : s.phase = .cEmit ∨ s.phase = .cGrow → s.i.toNat + s.bestLen.toNat < s.n.toNat →
      linkOf (s.nodeAt s.missNode) s.missDir = Config.nil := by simp)
    (at_end : s.phase = .cEos ∨ s.phase = .cClose → s.i = s.n := by simp) : CompressInv s where
  n_le := fun _ => h.n_le
  i_le := fun _ _ => h.i_le
  byteCount_eq := fun _ _ => h.byteCount_eq
  nodes := fun _ _ => h.nodes
  matched := matched
  walking := walking
  missed := missed
  at_end := at_end

/-- A link of a well-linked node that is not NIL names a bound code, allocated later (R112). -/
theorem State.nodeOk.link {s : State} {k : Code} (h : s.nodeOk k) {d : Dir}
    (hd : linkOf (s.nodeAt k) d ≠ Config.nil) :
    257 ≤ (linkOf (s.nodeAt k) d).toNat ∧ k.toNat < (linkOf (s.nodeAt k) d).toNat ∧
      s.bound (linkOf (s.nodeAt k) d) := by
  obtain ⟨-, -, -, -, hlink⟩ := h
  exact (hlink d).resolve_left hd

theorem State.nodeOk.code {s : State} {k : Code} (h : s.nodeOk k) : (s.nodeAt k).code = k := by
  obtain ⟨-, -, hcode, -⟩ := h
  exact hcode

/-! ## C_SEED -/

/-- After TRIE_SEED the bound codes are the bytes, and their nodes the roots, without links (R113). -/
theorem nodeOk_trieSeed {s t : State} (hn : t.node = s.trieSeed.node) (he : t.epoch = s.epoch)
    {k : Code} (hk : k.toNat < 256) : t.nodeOk k := by
  have hat : t.nodeAt k = rootNode k.toNat := by
    rw [nodeAt_congr hn he, nodeAt_trieSeed, if_pos hk]
  refine ⟨by simp [hn, Memory.read_seed, hk], ?_⟩
  rw [hat]
  refine ⟨rfl, by simp [rootNode], fun _ => ⟨?_, rfl, rfl⟩, fun d => .inl (by cases d <;> rfl)⟩
  exact BitVec.eq_of_toNat_eq (by simp [rootNode])

theorem compressInv_seeded {s : State} (h : Inv s) (hp : s.phase = .cSeed) :
    CompressInv { s.trieSeed with
      i := 0, nextCode := Config.firstFree, codeCount := 0, byteCount := 0, phase := .cMatch } := by
  refine CompressBase.inv ⟨h.compress.n_le (by rw [hp]; rfl), Nat.zero_le _, rfl, fun k hk => ?_⟩
  refine nodeOk_trieSeed (s := s) (by rfl) (by rfl) ?_
  obtain ⟨h1, h2⟩ := (bound_iff _ k).1 hk
  have h3 : k.toNat < 257 := h2
  omega

/-! ## The walk -/

/-- The start step matches one byte, the root node of INBUF[I] (R115). -/
theorem compressInv_walkStart {s : State} (h : CompressBase s) (hlow : 257 ≤ s.nextCode.toNat)
    (hi : s.i ≠ s.n) (b : Byte) : CompressInv { s.walkStart b with phase := .cWalk } := by
  have hlt : s.i.toNat < s.n.toNat := Nat.lt_of_le_of_ne h.i_le (mt BitVec.eq_of_toNat_eq hi)
  have hb : s.bound (byteCode b) := bound_of_lt (by simp [b.isLt]) hlow
  have hcode : (s.nodeAt (byteCode b)).code = byteCode b := (h.nodes _ hb).code
  have hj : (s.i + 1).toNat = s.i.toNat + 1 :=
    BitVec.toNat_add_of_lt (by have := s.n.isLt; simp; omega)
  have hmatch : MatchInv { s.walkStart b with phase := .cWalk } := {
    len_pos := by simp
    fits := by simpa using hlt
    best_bound := by simp only [walkStart_bestCode, hcode]; exact hb
    best_len := by simp [hcode, lenBound, b.isLt]
    miss_bound := hb
    miss_after := by simp [hcode]
    root_miss := by simp }
  exact CompressBase.inv ⟨h.n_le, h.i_le, h.byteCount_eq, h.nodes⟩ (fun _ => hmatch)
    (fun _ => ⟨by simpa using hj, rfl⟩)

/-- A visit of a node whose byte differs only moves the miss to that node, in one direction (R115). -/
theorem walkVisit_of_ne {s : State} {b : Byte} (hb : b ≠ (s.nodeAt s.p).c) :
    ∃ d, s.walkVisit b =
      { s with missNode := s.p, missDir := d, p := linkOf (s.nodeAt s.p) d } := by
  by_cases h1 : b < (s.nodeAt s.p).c
  · exact ⟨.lo, if_pos h1⟩
  · have h2 : (s.nodeAt s.p).c < b := by bv_omega
    exact ⟨.hi, (if_neg h1).trans (if_pos h2)⟩

/-- A visit of a node with the byte of the input extends the match by that node (R115). -/
theorem walkVisit_of_eq {s : State} {b : Byte} (hb : b = (s.nodeAt s.p).c) :
    s.walkVisit b = { s with
      bestCode := (s.nodeAt s.p).code
      bestLen := BitVec.ofNat 12 (s.j.toNat - s.i.toNat + 1)
      missNode := s.p
      missDir := .eq
      p := (s.nodeAt s.p).eq
      j := s.j + 1 } := by
  have h1 : ¬ b < (s.nodeAt s.p).c := by bv_omega
  have h2 : ¬ (s.nodeAt s.p).c < b := by bv_omega
  exact (if_neg h1).trans (if_neg h2)

/-- One visit keeps the walk: the node visited is bound and comes after the miss node, so the match it
may extend stays within its length bound (R104, R115). -/
theorem compressInv_walkVisit {s : State} (h : CompressBase s) (hm : MatchInv s)
    (hj : s.j.toNat = s.i.toNat + s.bestLen.toNat)
    (hp : s.p = linkOf (s.nodeAt s.missNode) s.missDir) (hjn : s.j ≠ s.n) (hnil : s.p ≠ Config.nil)
    (b : Byte) : CompressInv { s.walkVisit b with phase := .cWalk } := by
  obtain ⟨hlow, hafter, hbound⟩ := (h.nodes _ hm.miss_bound).link (hp ▸ hnil)
  rw [← hp] at hlow hafter hbound
  have hbest : s.bestCode.toNat < s.p.toNat := Nat.lt_of_le_of_lt hm.miss_after hafter
  by_cases hb : b = (s.nodeAt s.p).c
  · have hlt : s.j.toNat < s.n.toNat :=
      Nat.lt_of_le_of_ne (hj ▸ hm.fits) (mt BitVec.eq_of_toNat_eq hjn)
    have hcode : (s.nodeAt s.p).code = s.p := (h.nodes _ hbound).code
    have hlen : s.bestLen.toNat < lenBound s.p :=
      Nat.lt_of_le_of_lt hm.best_len (lenBound_lt_lenBound hlow hbest)
    have hnew : (BitVec.ofNat 12 (s.j.toNat - s.i.toNat + 1)).toNat = s.bestLen.toNat + 1 := by
      have := lenBound_le s.p
      rw [hj, Nat.add_sub_cancel_left, BitVec.toNat_ofNat]
      omega
    have hj1 : (s.j + 1).toNat = s.j.toNat + 1 :=
      BitVec.toNat_add_of_lt (by have := s.n.isLt; simp; omega)
    rw [walkVisit_of_eq hb]
    have hmatch : MatchInv { s with
        bestCode := (s.nodeAt s.p).code
        bestLen := BitVec.ofNat 12 (s.j.toNat - s.i.toNat + 1)
        missNode := s.p, missDir := .eq, p := (s.nodeAt s.p).eq, j := s.j + 1
        phase := .cWalk } := {
      len_pos := by rw [hnew]; omega
      fits := by rw [hnew]; simp only; omega
      best_bound := by rw [hcode]; exact hbound
      best_len := by rw [hnew, hcode]; exact hlen
      miss_bound := hbound
      miss_after := by rw [hcode]
      root_miss := fun _ => rfl }
    exact CompressBase.inv ⟨h.n_le, h.i_le, h.byteCount_eq, h.nodes⟩ (fun _ => hmatch)
      (fun _ => ⟨by rw [hnew, hj1, hj]; rfl, rfl⟩)
  · obtain ⟨d, hd⟩ := walkVisit_of_ne hb
    rw [hd]
    have hmatch : MatchInv { s with
        missNode := s.p, missDir := d, p := linkOf (s.nodeAt s.p) d, phase := .cWalk } := {
      hm with
      miss_bound := hbound
      miss_after := Nat.le_of_lt hbest
      root_miss := fun hlt => by simp only at hlt; omega }
    exact CompressBase.inv ⟨h.n_le, h.i_le, h.byteCount_eq, h.nodes⟩ (fun _ => hmatch)
      (fun _ => ⟨hj, rfl⟩)

/-- The walk ends at a NIL link, or with the match at the end of the input (R115, R116). -/
theorem compressInv_walkEnd {s : State} (h : CompressBase s) (hm : MatchInv s)
    (hj : s.j.toNat = s.i.toNat + s.bestLen.toNat)
    (hp : s.p = linkOf (s.nodeAt s.missNode) s.missDir) (hend : s.j = s.n ∨ s.p = Config.nil) :
    CompressInv { s with phase := .cEmit } := by
  refine CompressBase.inv (h.passive _ _ _) (fun _ => hm.passive _ _ _) (missed := fun _ hlt => ?_)
  rcases hend with he | he
  · have : s.j.toNat < s.n.toNat := hj ▸ hlt
    exact absurd (congrArg BitVec.toNat he) (Nat.ne_of_lt this)
  · exact hp.symm.trans he

/-! ## The growth step -/

theorem isSome_read_trieInsert {s : State} {b : Byte} (h : ∀ k, s.bound k → s.nodeOk k)
    {k : Code} (hk : k = codeOfCounter s.nextCode ∨ s.bound k) :
    (Memory.read (s.trieInsert b).node k.toNat).isSome := by
  simp only [State.trieInsert, Memory.read_write, BitVec.toNat_inj]
  split
  · rfl
  · split
    · rfl
    · next hne =>
      obtain ⟨hread, -⟩ := h k (hk.resolve_left hne)
      exact hread

/-- The new node has no links and its own code; the miss node gains one link, to the new node, which
comes after it; every other node is as before (R117). -/
theorem nodeOk_trieInsert {s : State} (h : ∀ k, s.bound k → s.nodeOk k) (hm : MatchInv s)
    (hlow : 257 ≤ s.nextCode.toNat) (hc : s.nextCode.toNat < 4096) (b : Byte) :
    ∀ k, (s.trieInsert b).bound k → (s.trieInsert b).nodeOk k := by
  have hsucc : (s.trieInsert b).nextCode.toNat = s.nextCode.toNat + 1 := counter_succ hc
  have hnew := bound_succ_iff hc hlow hsucc
  have hmiss := bound_codeOfCounter_ne hc hm.miss_bound
  have hmono : ∀ q, s.bound q → (s.trieInsert b).bound q := fun q hq => hq.mono (by omega)
  intro k hk
  refine ⟨isSome_read_trieInsert h ((hnew k).1 hk), ?_⟩
  rw [nodeAt_trieInsert s b k hmiss]
  by_cases hkm : k = s.missNode
  · subst hkm
    obtain ⟨-, hterm, hcode, hroot, hlink⟩ := h _ hm.miss_bound
    rw [if_pos rfl]
    refine ⟨by simpa using hterm, by simpa using hcode, fun hlt => ?_, fun d => ?_⟩
    · rw [hm.root_miss hlt]
      exact hroot hlt
    · rw [linkOf_setLink]
      split
      · rw [codeOfCounter_toNat hc]
        exact .inr ⟨hlow, hm.miss_bound.2, (hnew _).2 (.inl rfl)⟩
      · exact (hlink d).imp id fun ⟨h1, h2, h3⟩ => ⟨h1, h2, hmono _ h3⟩
  · rw [if_neg hkm]
    by_cases hkn : k = codeOfCounter s.nextCode
    · rw [if_pos hkn]
      refine ⟨rfl, hkn.symm, fun hlt => ?_, fun d => .inl (by cases d <;> rfl)⟩
      rw [hkn, codeOfCounter_toNat hc] at hlt
      omega
    · rw [if_neg hkn]
      obtain ⟨-, hterm, hcode, hroot, hlink⟩ := h k (((hnew k).1 hk).resolve_left hkn)
      exact ⟨hterm, hcode, hroot,
        fun d => (hlink d).imp id fun ⟨h1, h2, h3⟩ => ⟨h1, h2, hmono _ h3⟩⟩

/-- Growth inserts the new node and keeps the match (R164). -/
theorem compressInv_grow {s : State} (h : CompressBase s) (hm : MatchInv s)
    (hlow : 257 ≤ s.nextCode.toNat) (hc : s.nextCode.toNat < 4096) (b : Byte) :
    CompressInv { s.trieInsert b with phase := .cAdv } := by
  have hle : s.nextCode.toNat ≤ (s.trieInsert b).nextCode.toNat := by
    rw [trieInsert_nextCode, counter_succ hc]
    omega
  have hmatch : MatchInv { s.trieInsert b with phase := .cAdv } := {
    hm with
    best_bound := hm.best_bound.mono hle
    miss_bound := hm.miss_bound.mono hle }
  exact CompressBase.inv
    ⟨h.n_le, h.i_le, h.byteCount_eq, nodeOk_trieInsert h.nodes hm hlow hc b⟩ (fun _ => hmatch)

/-- The offset after the match is inside the input, so I + BEST_LEN does not wrap (R37). -/
theorem afterMatch_toNat {s : State} (hm : MatchInv s) :
    s.afterMatch.toNat = s.i.toNat + s.bestLen.toNat := by
  have hfits := hm.fits
  have hn := s.n.isLt
  have hlen : (s.bestLen.setWidth 32).toNat = s.bestLen.toNat :=
    BitVec.toNat_setWidth_of_le (by decide)
  rw [State.afterMatch, BitVec.toNat_add_of_lt (by omega), hlen]

/-- C_ADV moves I past the match, and BYTE_COUNT with it (R165). -/
theorem compressInv_adv {s : State} (h : CompressBase s) (hm : MatchInv s) :
    CompressInv { s with i := s.afterMatch, byteCount := s.afterMatch, phase := .cMatch } :=
  CompressBase.inv ⟨h.n_le, afterMatch_toNat hm ▸ hm.fits, rfl, h.nodes⟩

/-! ## All moves -/

/-- A move of the engine keeps the compress side: the moves of a compress run by the lemmas above, every
other one because it ends in no compress run. -/
theorem EngineMove.compressInv {s t : State} (hm : EngineMove s t) (h : Inv s) : CompressInv t := by
  cases hm with
  | rest => exact h.compress
  | cSeed hp => exact compressInv_seeded h hp
  | matchEnd hp hi =>
    obtain ⟨hb, -⟩ := h.compressBase (by simp [hp])
    exact CompressBase.inv (hb.passive _ _ _) (at_end := fun _ => hi)
  | matchStart hp hi =>
    obtain ⟨hb, hlow⟩ := h.compressBase (by simp [hp])
    exact compressInv_walkStart hb hlow hi _
  | walkEnd hp hend =>
    obtain ⟨hb, -⟩ := h.compressBase (by simp [hp])
    obtain ⟨hj, hlink⟩ := h.compress.walking hp
    exact compressInv_walkEnd hb (h.compress.matched (by simp [hp])) hj hlink hend
  | walkVisit hp hjn hnil =>
    obtain ⟨hb, -⟩ := h.compressBase (by simp [hp])
    obtain ⟨hj, hlink⟩ := h.compress.walking hp
    exact compressInv_walkVisit hb (h.compress.matched (by simp [hp])) hj hlink hjn hnil _
  | cEmit hp =>
    obtain ⟨hb, -⟩ := h.compressBase (by simp [hp])
    have hmatch := h.compress.matched (by simp [hp])
    exact CompressBase.inv (hb.passive _ _ _) (fun _ => hmatch.passive _ _ _)
      (missed := fun _ => h.compress.missed (.inl hp))
  | cGrow hp _ hc =>
    obtain ⟨hb, hlow⟩ := h.compressBase (by simp [hp])
    exact compressInv_grow hb (h.compress.matched (by simp [hp])) hlow hc _
  | cNoGrow hp =>
    obtain ⟨hb, -⟩ := h.compressBase (by simp [hp])
    have hmatch := h.compress.matched (by simp [hp])
    exact CompressBase.inv (hb.passive _ _ _) (fun _ => hmatch.passive _ _ _)
  | cAdv hp =>
    obtain ⟨hb, -⟩ := h.compressBase (by simp [hp])
    exact compressInv_adv hb (h.compress.matched (by simp [hp]))
  | cEos hp =>
    obtain ⟨hb, -⟩ := h.compressBase (by simp [hp])
    exact CompressBase.inv (hb.passive _ _ _) (at_end := fun _ => h.compress.at_end (.inl hp))
  | cClose | xSeed | truncated | firstEos | firstLit | firstBad | xEmit | pushEnd | push | popEnd
  | pop | readEos | read | resolveEos | hit | selfref | resolveBad | xGrow | xNoGrow | xAdv
  | xClose => exact compressInv_of_mode_ne (by simp [Phase.mode])

/-- The sequence C_GROW binds is the match and one byte, within the bound of its code (R104). -/
theorem inbufSlice_len_of_match {s : State} (hm : MatchInv s) (hlow : 257 ≤ s.nextCode.toNat) :
    2 ≤ (s.inbufSlice s.i (s.bestLen.toNat + 1)).length ∧
      (s.inbufSlice s.i (s.bestLen.toNat + 1)).length ≤ s.nextCode.toNat - 255 := by
  have h1 := hm.len_pos
  have h2 := hm.best_len
  have h3 := lenBound_lt hm.best_bound hlow
  have hlen : (s.inbufSlice s.i (s.bestLen.toNat + 1)).length = s.bestLen.toNat + 1 := by
    simp [State.inbufSlice]
  omega

end Sys2Proof.Machine
end

section
/-! The expand side of the invariant under the moves of the engine: the chained table (R136 to R142), the
reconstruction (R139, R140) and the growth step (R202). -/

namespace Sys2Proof.Machine

/-! ## Entries of the code table -/

theorem State.entryOk.of_byte {s : State} {k : Code} (h : s.entryOk k) (hk : k.toNat < 256) :
    s.tabAt k = seedEntry k.toNat := by
  obtain ⟨-, hentry⟩ := h
  rwa [if_pos hk] at hentry

/-- A learned entry extends an earlier bound code by one byte (R136, R142). -/
theorem State.entryOk.of_learned {s : State} {k : Code} (h : s.entryOk k) (hk : ¬ k.toNat < 256) :
    s.bound (s.tabAt k).pre ∧ (s.tabAt k).pre.toNat < k.toNat ∧
    (s.tabAt k).len.toNat = (s.tabAt (s.tabAt k).pre).len.toNat + 1 ∧
    (s.tabAt k).len.toNat ≤ k.toNat - 255 ∧
    (s.tabAt k).first = (s.tabAt (s.tabAt k).pre).first := by
  obtain ⟨-, hentry⟩ := h
  rwa [if_neg hk] at hentry

/-- An entry's length is within the bound of its code (R104, R135). -/
theorem State.entryOk.len_le {s : State} {k : Code} (h : s.entryOk k) :
    (s.tabAt k).len.toNat ≤ lenBound k := by
  unfold lenBound
  split
  · next hk =>
    rw [h.of_byte hk]
    exact Nat.le_refl 1
  · next hk =>
    obtain ⟨-, -, -, hle, -⟩ := h.of_learned hk
    exact hle

/-- The link of a bound entry is NIL, at a byte, or leads to a bound code whose entry is one shorter
(R140). -/
theorem State.entryOk.pre_cases {s : State} {k : Code} (h : s.entryOk k) :
    ((s.tabAt k).pre = Config.nil ∧ (s.tabAt k).len.toNat = 1) ∨
    (s.bound (s.tabAt k).pre ∧
      (s.tabAt k).len.toNat = (s.tabAt (s.tabAt k).pre).len.toNat + 1) := by
  by_cases hk : k.toNat < 256
  · rw [h.of_byte hk]
    exact .inl ⟨rfl, rfl⟩
  · obtain ⟨hbound, -, hlen, -⟩ := h.of_learned hk
    exact .inr ⟨hbound, hlen⟩

/-- The sequence of a bound code is no longer than its entry says (R141). -/
theorem chainSeq_length_le {s : State} (h : ∀ k, s.bound k → s.entryOk k) (fuel : Nat) {k : Code}
    (hk : s.bound k) : (s.chainSeq fuel k).length ≤ (s.tabAt k).len.toNat := by
  induction fuel generalizing k with
  | zero => exact Nat.zero_le _
  | succ fuel ih =>
    unfold State.chainSeq
    rcases (h k hk).pre_cases with ⟨hnil, hlen⟩ | ⟨hbound, hlen⟩
    · simp [hnil, hlen]
    · have := ih hbound
      rw [if_neg hbound.ne_nil]
      simp only [List.length_append, List.length_singleton]
      omega

theorem chainSeq_length_pos (s : State) (fuel : Nat) (k : Code) :
    1 ≤ (s.chainSeq (fuel + 1) k).length := by
  unfold State.chainSeq
  simp only
  split <;> simp

/-- The sequence X_GROW binds is `current` and one byte, within the bound of its code (R135). -/
theorem seqOf_len_of_current {s : State} (h : ∀ k, s.bound k → s.entryOk k) (hcur : s.bound s.cur)
    (hlow : 257 ≤ s.nextCode.toNat) (b : Byte) :
    2 ≤ (s.seqOf s.cur ++ [b]).length ∧
      (s.seqOf s.cur ++ [b]).length ≤ s.nextCode.toNat - 255 := by
  have h1 : 1 ≤ (s.seqOf s.cur).length := chainSeq_length_pos s 4095 s.cur
  have h2 : (s.seqOf s.cur).length ≤ (s.tabAt s.cur).len.toNat := chainSeq_length_le h _ hcur
  have h3 := (h _ hcur).len_le
  have h4 := lenBound_lt hcur hlow
  rw [List.length_append, List.length_singleton]
  omega

/-! ## The parts of the expand side -/

/-- The expand side from the entries and from what the phase adds; what the phase does not speak of is
filled in. -/
theorem expandInv_of_entries {s : State} (h : ∀ k, s.bound k → s.entryOk k)
    (current : s.phase.hasCurrent → s.bound s.cur := by simp [Phase.hasCurrent])
    (pushing : s.phase = .xPush →
      (s.p = Config.nil ∧ s.sp.toNat = (s.tabAt s.cur).len.toNat) ∨
      (s.bound s.p ∧ s.sp.toNat + (s.tabAt s.p).len.toNat = (s.tabAt s.cur).len.toNat) := by simp)
    (popping : s.phase = .xPop → s.sp.toNat ≤ (s.tabAt s.cur).len.toNat := by simp)
    (resolving : s.phase = .xResolve → s.k ≠ Config.eos := by simp)
    (growing : s.phase = .xGrow →
      (s.bound s.k ∧ s.nfirst = s.firstOf s.k) ∨
      (s.k ≠ Config.eos ∧ s.k.toNat = s.nextCode.toNat ∧ s.nfirst = s.firstOf s.cur) := by simp)
    (advancing : s.phase = .xAdv → s.bound s.k := by simp) : ExpandInv s where
  entries := fun _ _ => h
  current := current
  pushing := pushing
  popping := popping
  resolving := resolving
  growing := growing
  advancing := advancing

/-- The entries in a phase past X_SEED, where the codes have begun (R31). -/
theorem Inv.entries {s : State} (h : Inv s) (hm : s.phase.mode = .expanding) (hp : s.phase ≠ .xSeed) :
    (∀ k, s.bound k → s.entryOk k) ∧ 257 ≤ s.nextCode.toNat :=
  ⟨h.expand.entries hm hp, h.reg.seeded (.inl ⟨(busy_iff s).2 (.inr hm),
    fun hc => by simp [hc, Phase.mode] at hm, hp⟩)⟩

/-- In a phase that has `current`, its code is bound too (R42). -/
theorem Inv.current {s : State} (h : Inv s) (hp : s.phase.hasCurrent) :
    (∀ k, s.bound k → s.entryOk k) ∧ 257 ≤ s.nextCode.toNat ∧ s.bound s.cur := by
  obtain ⟨he, hlow⟩ := h.entries hp.mode_eq fun hx => by simp [hx, Phase.hasCurrent] at hp
  exact ⟨he, hlow, h.expand.current hp⟩

/-! ## X_SEED -/

/-- After TAB_SEED the bound codes are the bytes, and their entries the seeded ones (R137). -/
theorem expandInv_seeded (s : State) : ExpandInv { s.tabSeed with
    nextCode := Config.firstFree, codeCount := 0, byteCount := 0, phase := .xFirst } := by
  refine expandInv_of_entries fun k hk => ?_
  obtain ⟨h1, h2⟩ := (bound_iff _ k).1 hk
  have h3 : k.toNat < 257 := h2
  have hlt : k.toNat < 256 := by omega
  refine ⟨by simp [Memory.read_seed, hlt], ?_⟩
  rw [if_pos hlt, tabAt_congr (s := s.tabSeed) (by rfl) (by rfl), tabAt_tabSeed, if_pos hlt]

/-! ## The reconstruction -/

/-- One push moves one byte from the chain to the LIFO (R139, R140). -/
theorem pushing_of_push {s : State} (h : s.entryOk s.p) (hs : s.sp.toNat < Config.maxSeqLen)
    (hsum : s.sp.toNat + (s.tabAt s.p).len.toNat = (s.tabAt s.cur).len.toNat) :
    ((s.tabAt s.p).pre = Config.nil ∧ (s.sp + 1).toNat = (s.tabAt s.cur).len.toNat) ∨
    (s.bound (s.tabAt s.p).pre ∧
      (s.sp + 1).toNat + (s.tabAt (s.tabAt s.p).pre).len.toNat = (s.tabAt s.cur).len.toNat) := by
  have hsp : (s.sp + 1).toNat = s.sp.toNat + 1 := by
    have h3840 : s.sp.toNat < 3840 := hs
    exact BitVec.toNat_add_of_lt (by simp; omega)
  exact h.pre_cases.imp (fun ⟨hnil, hlen⟩ => ⟨hnil, by omega⟩)
    (fun ⟨hbound, hlen⟩ => ⟨hbound, by omega⟩)

/-! ## The growth step -/

theorem tabAt_tabAppend_bound {s : State} (hc : s.nextCode.toNat < 4096) {k : Code}
    (hk : s.bound k) : s.tabAppend.tabAt k = s.tabAt k := by
  rw [tabAt_tabAppend, if_neg (bound_codeOfCounter_ne hc hk)]

theorem bound_tabAppend_iff {s : State} (hlow : 257 ≤ s.nextCode.toNat)
    (hc : s.nextCode.toNat < 4096) (k : Code) :
    s.tabAppend.bound k ↔ k = codeOfCounter s.nextCode ∨ s.bound k :=
  bound_succ_iff hc hlow (counter_succ hc) k

/-- The new entry extends `current` by one byte, within the bound of its code (R138). -/
theorem entryOk_tabAppend_new {s : State} (h : s.entryOk s.cur) (hcur : s.bound s.cur)
    (hlow : 257 ≤ s.nextCode.toNat) (hc : s.nextCode.toNat < 4096) :
    s.tabAppend.entryOk (codeOfCounter s.nextCode) := by
  have hle := h.len_le
  have hlt := lenBound_lt hcur hlow
  have hlen : ((s.tabAt s.cur).len + 1).toNat = (s.tabAt s.cur).len.toNat + 1 :=
    BitVec.toNat_add_of_lt (by simp; omega)
  refine ⟨by simp [State.tabAppend, Memory.read_write], ?_⟩
  rw [tabAt_tabAppend, if_pos rfl, codeOfCounter_toNat hc, if_neg (by omega)]
  refine ⟨(bound_tabAppend_iff hlow hc _).2 (.inr hcur), hcur.2, ?_, ?_, ?_⟩
  · rw [tabAt_tabAppend_bound hc hcur, hlen]
  · rw [hlen]
    omega
  · rw [tabAt_tabAppend_bound hc hcur]

/-- Every entry bound before, and every code it names, is as it was (R138). -/
theorem entryOk_tabAppend_of_bound {s : State} (h : ∀ k, s.bound k → s.entryOk k)
    (hlow : 257 ≤ s.nextCode.toNat) (hc : s.nextCode.toNat < 4096) {k : Code} (hk : s.bound k) :
    s.tabAppend.entryOk k := by
  have hread : (Memory.read s.tabAppend.tab k.toNat).isSome := by
    simp only [State.tabAppend, Memory.read_write]
    split
    · rfl
    · obtain ⟨hread, -⟩ := h k hk
      exact hread
  refine ⟨hread, ?_⟩
  rw [tabAt_tabAppend_bound hc hk]
  split
  · next hlt => exact (h k hk).of_byte hlt
  · next hlt =>
    obtain ⟨hpre, hrest⟩ := (h k hk).of_learned hlt
    rw [tabAt_tabAppend_bound hc hpre]
    exact ⟨(bound_tabAppend_iff hlow hc _).2 (.inr hpre), hrest⟩

theorem entryOk_tabAppend {s : State} (h : ∀ k, s.bound k → s.entryOk k) (hcur : s.bound s.cur)
    (hlow : 257 ≤ s.nextCode.toNat) (hc : s.nextCode.toNat < 4096) :
    ∀ k, s.tabAppend.bound k → s.tabAppend.entryOk k := by
  intro k hk
  rcases (bound_tabAppend_iff hlow hc k).1 hk with rfl | hks
  · exact entryOk_tabAppend_new (h _ hcur) hcur hlow hc
  · exact entryOk_tabAppend_of_bound h hlow hc hks

/-- The code that grows the table is bound once the growth is done, also where it is the one this growth
binds (R206). -/
theorem bound_tabAppend_of_growing {s : State} (h : ExpandInv s) (hp : s.phase = .xGrow)
    (hlow : 257 ≤ s.nextCode.toNat) (hc : s.nextCode.toNat < 4096) : s.tabAppend.bound s.k := by
  rw [bound_tabAppend_iff hlow hc]
  rcases h.growing hp with ⟨hk, -⟩ | ⟨-, hk, -⟩
  · exact .inr hk
  · exact .inl (BitVec.eq_of_toNat_eq (hk.trans (codeOfCounter_toNat hc).symm))

/-- With the code space exhausted no code equals NEXT_CODE, so the code is bound already (R31). -/
theorem bound_of_growing_full {s : State} (h : ExpandInv s) (hp : s.phase = .xGrow)
    (hc : ¬ s.nextCode.toNat < 4096) : s.bound s.k := by
  rcases h.growing hp with ⟨hk, -⟩ | ⟨-, hk, -⟩
  · exact hk
  · have := s.k.isLt
    omega

/-! ## All moves -/

/-- A move of the engine keeps the expand side: the moves of an expand run by the lemmas above, every
other one because it ends in no expand run. -/
theorem EngineMove.expandInv {s t : State} (hm : EngineMove s t) (h : Inv s) : ExpandInv t := by
  cases hm with
  | rest => exact h.expand
  | xSeed => exact expandInv_seeded s
  | firstEos hp | readEos hp | resolveEos hp =>
    obtain ⟨he, -⟩ := h.entries (by simp [hp, Phase.mode]) (by simp [hp])
    exact expandInv_of_entries he
  | firstLit hp k _ hl =>
    obtain ⟨he, hlow⟩ := h.entries (by simp [hp, Phase.mode]) (by simp [hp])
    exact expandInv_of_entries he (current := fun _ => bound_of_lt hl hlow)
  | xEmit hp =>
    obtain ⟨he, -, hcur⟩ := h.current (by simp [hp, Phase.hasCurrent])
    exact expandInv_of_entries he (current := fun _ => hcur)
      (pushing := fun _ => .inr ⟨hcur, Nat.zero_add _⟩)
  | pushEnd hp hnil =>
    obtain ⟨he, -, hcur⟩ := h.current (by simp [hp, Phase.hasCurrent])
    refine expandInv_of_entries he (current := fun _ => hcur) (popping := fun _ => ?_)
    rcases h.expand.pushing hp with ⟨-, hsum⟩ | ⟨hbound, -⟩
    · exact Nat.le_of_eq hsum
    · exact absurd hnil hbound.ne_nil
  | push hp hnil hs =>
    obtain ⟨he, -, hcur⟩ := h.current (by simp [hp, Phase.hasCurrent])
    obtain ⟨hbound, hsum⟩ := (h.expand.pushing hp).resolve_left fun hn => hnil hn.1
    exact expandInv_of_entries he (current := fun _ => hcur)
      (pushing := fun _ => pushing_of_push (he _ hbound) hs hsum)
  | popEnd hp =>
    obtain ⟨he, -, hcur⟩ := h.current (by simp [hp, Phase.hasCurrent])
    exact expandInv_of_entries he (current := fun _ => hcur)
  | pop hp hs =>
    obtain ⟨he, -, hcur⟩ := h.current (by simp [hp, Phase.hasCurrent])
    have hsub : (s.sp - 1).toNat ≤ s.sp.toNat := by bv_omega
    exact expandInv_of_entries he (current := fun _ => hcur)
      (popping := fun _ => hsub.trans (h.expand.popping hp))
  | read hp k _ hne =>
    obtain ⟨he, -, hcur⟩ := h.current (by simp [hp, Phase.hasCurrent])
    exact expandInv_of_entries he (current := fun _ => hcur) (resolving := fun _ => hne)
  | hit hp hne hk =>
    obtain ⟨he, -, hcur⟩ := h.current (by simp [hp, Phase.hasCurrent])
    exact expandInv_of_entries he (current := fun _ => hcur)
      (growing := fun _ => .inl ⟨⟨hne, hk⟩, rfl⟩)
  | selfref hp hne hk =>
    obtain ⟨he, -, hcur⟩ := h.current (by simp [hp, Phase.hasCurrent])
    exact expandInv_of_entries he (current := fun _ => hcur)
      (growing := fun _ => .inr ⟨hne, hk, rfl⟩)
  | xGrow hp hc =>
    obtain ⟨he, hlow, hcur⟩ := h.current (by simp [hp, Phase.hasCurrent])
    exact expandInv_of_entries (entryOk_tabAppend he hcur hlow hc)
      (advancing := fun _ => bound_tabAppend_of_growing h.expand hp hlow hc)
  | xNoGrow hp hc =>
    have hbound : s.bound s.k := bound_of_growing_full h.expand hp hc
    obtain ⟨he, -⟩ := h.entries (by simp [hp, Phase.mode]) (by simp [hp])
    exact expandInv_of_entries he (advancing := fun _ => hbound)
  | xAdv hp =>
    obtain ⟨he, -⟩ := h.entries (by simp [hp, Phase.mode]) (by simp [hp])
    exact expandInv_of_entries he (current := fun _ => h.expand.advancing hp)
  | cSeed | matchEnd | matchStart | walkEnd | walkVisit | cEmit | cGrow | cNoGrow | cAdv | cEos
  | cClose | truncated | firstBad | resolveBad | xClose =>
    exact expandInv_of_mode_ne (by simp [Phase.mode])

end Sys2Proof.Machine
end

section
/-! The invariant of the machine: every step keeps it, and from a state that has it every step the host
may take answers a next state. -/

namespace Sys2Proof.Machine

/-! ## Every step keeps the invariant -/

/-- The two growth phases bind a sequence, each its own (R108, R133); no other phase does. -/
theorem EngineMove.assigns_cases {s t : State} (hm : EngineMove s t) :
    t.assigns = s.assigns ∨
    (s.phase = .cGrow ∧ s.nextCode.toNat < 4096 ∧ t.assigns =
      s.assigns ++ [(codeOfCounter s.nextCode, s.inbufSlice s.i (s.bestLen.toNat + 1))]) ∨
    (s.phase = .xGrow ∧ s.nextCode.toNat < 4096 ∧ t.assigns =
      s.assigns ++ [(codeOfCounter s.nextCode, s.seqOf s.cur ++ [s.nfirst])]) := by
  cases hm
  case cGrow hp _ hc _ => exact .inr (.inl ⟨hp, hc, rfl⟩)
  case xGrow hp hc => exact .inr (.inr ⟨hp, hc, rfl⟩)
  all_goals exact .inl (by simp)

/-- The sequences learned keep to the bounds of their codes (R104, R135). -/
theorem EngineMove.assigns_len {s t : State} (hm : EngineMove s t) (h : Inv s) :
    ∀ x ∈ t.assigns, 2 ≤ x.2.length ∧ x.2.length ≤ x.1.toNat - 255 := by
  have hold := h.reg.assigns_len
  rcases hm.assigns_cases with ha | ⟨hp, hc, ha⟩ | ⟨hp, hc, ha⟩
  · exact ha ▸ hold
  · obtain ⟨-, hlow⟩ := h.compressBase (by simp [hp])
    have hnew := inbufSlice_len_of_match (h.compress.matched (by simp [hp])) hlow
    rw [← codeOfCounter_toNat hc] at hnew
    rw [ha]
    exact List.forall_mem_append.2 ⟨hold, List.forall_mem_singleton.2 hnew⟩
  · obtain ⟨he, hlow, hcur⟩ := h.current (by simp [hp, Phase.hasCurrent])
    have hnew := seqOf_len_of_current he hcur hlow s.nfirst
    rw [← codeOfCounter_toNat hc] at hnew
    rw [ha]
    exact List.forall_mem_append.2 ⟨hold, List.forall_mem_singleton.2 hnew⟩

/-- A move of the engine keeps the invariant. -/
theorem EngineMove.inv {s t : State} (hm : EngineMove s t) (h : Inv s) : Inv t where
  reg := hm.regInv h.reg (hm.assigns_len h)
  compress := hm.compressInv h
  expand := hm.expandInv h

theorem Inv.withTurns {s : State} (h : Inv s) (ts : List Turn) : Inv { s with turns := ts } :=
  h.passive h.reg.inbuf_wf s.inLen s.source s.srcPos s.replies ts s.draws

/-- Settles O3: the move of the engine or the effect of the host that the step is keeps the invariant,
which does not speak of the turns. -/
theorem stepKeepsInvariant : Obligations.StepKeepsInvariant := by
  intro s t h ht
  cases step_moves ht with
  | engine u _ hu hm => exact hm.inv (engineTurn_eq hu ▸ h.withTurns u.turns)
  | host m ts _ _ he => exact he.inv (h.withTurns ts)
  | waited ts => exact h.withTurns ts

end Sys2Proof.Machine
end

section
/-! Progress: from a state with the invariant every phase, and every transaction the host may make,
answers a next state; none of the model's own faults is reached (R38, R69, R140). -/

namespace Sys2Proof.Machine

/-! ## The code words in their contexts -/

theorem inContext_of_true {ok : Bool} {t : State} (h : ok = true) : inContext ok t = .next t := by
  rw [h]
  rfl

/-- The first code, taken into K in X_FIRST, decodes to a row in its context (R86, R192). -/
theorem exec_decodeFirst_next {s : State} {k : Code} (hp : s.phase = .xFirst) (hk : s.k = k) :
    ∃ t, exec (decodeFirst k) s = .next t := by
  unfold decodeFirst
  split
  · next he => exact ⟨_, inContext_of_true (by simp [State.inFirst, hp, hk, he])⟩
  · next he =>
    have h256 : k.toNat ≠ 256 := (ne_eos_iff k).1 he
    split
    · next hl =>
      have hbyte : byteCode (k.setWidth 8) = k := byteCode_setWidth (by omega)
      exact ⟨_, inContext_of_true (by simp [State.inFirst, hp, hk, hbyte])⟩
    · next hl =>
      have hbad : 257 ≤ k.toNat := by omega
      exact ⟨_, inContext_of_true (by simp [State.inFirst, hp, hk, hbad])⟩

/-- A later code in K in X_RESOLVE, which is not EOS, decodes to a row in its context (R86). -/
theorem exec_decodeNext_next {s : State} (hp : s.phase = .xResolve) (hne : s.k ≠ Config.eos) :
    ∃ t, exec (decodeNext s.nextCode s.k) s = .next t := by
  unfold decodeNext
  rw [if_neg hne]
  split
  · next hlt => exact ⟨_, inContext_of_true (by simp [State.inResolve, hp, hne, hlt])⟩
  · next hlt =>
    split
    · next heq => exact ⟨_, inContext_of_true (by simp [State.inResolve, hp, hne, heq])⟩
    · next heq =>
      have hgt : s.nextCode.toNat < s.k.toNat := by omega
      exact ⟨_, inContext_of_true (by simp [State.inResolve, hp, hne, hgt])⟩

/-! ## The phases that could stop -/

theorem engineByte_of_lt {s : State} {a : Word} (h : a.toNat < s.nMax.toNat) :
    s.engineByte a = some (s.inbufByte a) :=
  if_pos h

/-- I is below N, so INBUF[I] is inside INBUF (R69, R162). -/
theorem phaseCMatch_next {s : State} (h : CompressBase s) : ∃ t, phaseCMatch s = .next t := by
  unfold phaseCMatch
  split
  · exact ⟨_, rfl⟩
  · next hi =>
    have hlt : s.i.toNat < s.n.toNat := Nat.lt_of_le_of_ne h.i_le (mt BitVec.eq_of_toNat_eq hi)
    rw [engineByte_of_lt (Nat.lt_of_lt_of_le hlt h.n_le)]
    exact ⟨_, rfl⟩

/-- J is the end of the match, which is inside the input (R69, R115). -/
theorem phaseCWalk_next {s : State} (h : CompressBase s) (hm : MatchInv s)
    (hj : s.j.toNat = s.i.toNat + s.bestLen.toNat) : ∃ t, phaseCWalk s = .next t := by
  unfold phaseCWalk
  split
  · exact ⟨_, rfl⟩
  · next hne =>
    have hjn : s.j.toNat ≠ s.n.toNat := mt BitVec.eq_of_toNat_eq fun e => hne (.inl e)
    have hlt : s.j.toNat < s.n.toNat := Nat.lt_of_le_of_ne (hj ▸ hm.fits) hjn
    rw [engineByte_of_lt (Nat.lt_of_lt_of_le hlt h.n_le)]
    exact ⟨_, rfl⟩

/-- The byte after the match is read only where there is one (R69, R164). -/
theorem phaseCGrow_next {s : State} (h : CompressBase s) (hm : MatchInv s) :
    ∃ t, phaseCGrow s = .next t := by
  unfold phaseCGrow
  split
  · next hg =>
    obtain ⟨hlt, -⟩ := hg
    rw [← afterMatch_toNat hm] at hlt
    rw [engineByte_of_lt (Nat.lt_of_lt_of_le hlt h.n_le)]
    exact ⟨_, rfl⟩
  · exact ⟨_, rfl⟩

/-- The length of the current sequence is at most 3840, the size of the LIFO (R140). -/
theorem len_current_le {s : State} (h : Inv s) (hp : s.phase.hasCurrent) :
    (s.tabAt s.cur).len.toNat ≤ Config.maxSeqLen := by
  obtain ⟨he, -, hcur⟩ := h.current hp
  exact (he _ hcur).len_le.trans (lenBound_le _)

/-- While the chain has not ended at least one byte of the current sequence is not on the LIFO (R140). -/
theorem phaseXPush_next {s : State} (h : Inv s) (hp : s.phase = .xPush) :
    ∃ t, phaseXPush s = .next t := by
  have hmax := len_current_le h (by simp [hp, Phase.hasCurrent])
  obtain ⟨he, -, -⟩ := h.current (by simp [hp, Phase.hasCurrent])
  unfold phaseXPush
  split
  · exact ⟨_, rfl⟩
  · next hnil =>
    obtain ⟨hbound, hsum⟩ := (h.expand.pushing hp).resolve_left fun hn => hnil hn.1
    have hpos : 1 ≤ (s.tabAt s.p).len.toNat := by
      rcases (he _ hbound).pre_cases with ⟨-, hlen⟩ | ⟨-, hlen⟩ <;> omega
    rw [if_pos (by omega)]
    exact ⟨_, rfl⟩

theorem phaseXPop_next {s : State} (h : Inv s) (hp : s.phase = .xPop) :
    ∃ t, phaseXPop s = .next t := by
  have hmax := len_current_le h (by simp [hp, Phase.hasCurrent])
  unfold phaseXPop
  split
  · exact ⟨_, rfl⟩
  · rw [if_pos ((h.expand.popping hp).trans hmax)]
    exact ⟨_, rfl⟩

theorem phaseXFirst_next {s : State} (hp : s.phase = .xFirst) : ∃ t, phaseXFirst s = .next t := by
  unfold phaseXFirst
  split
  · exact ⟨_, rfl⟩
  · exact exec_decodeFirst_next hp rfl

theorem phaseXRead_next {s : State} (hp : s.phase = .xRead) : ∃ t, phaseXRead s = .next t := by
  unfold phaseXRead
  split
  · exact ⟨_, rfl⟩
  · split
    · next he => exact ⟨_, inContext_of_true (by simp [State.inNextEos, hp, he])⟩
    · exact ⟨_, rfl⟩

/-! ## Every step -/

/-- No engine step from a state with the invariant stops (R38). -/
theorem engineStep_next {s : State} (h : Inv s) : ∃ t, engineStep s = .next t := by
  unfold engineStep
  cases hp : s.phase with
  | cMatch =>
    obtain ⟨hb, -⟩ := h.compressBase (by simp [hp])
    exact phaseCMatch_next hb
  | cWalk =>
    obtain ⟨hb, -⟩ := h.compressBase (by simp [hp])
    obtain ⟨hj, -⟩ := h.compress.walking hp
    exact phaseCWalk_next hb (h.compress.matched (by simp [hp])) hj
  | cGrow =>
    obtain ⟨hb, -⟩ := h.compressBase (by simp [hp])
    exact phaseCGrow_next hb (h.compress.matched (by simp [hp]))
  | xFirst => exact phaseXFirst_next hp
  | xPush => exact phaseXPush_next h hp
  | xPop => exact phaseXPop_next h hp
  | xRead => exact phaseXRead_next hp
  | xResolve => exact exec_decodeNext_next hp (h.expand.resolving hp)
  | idle | done | fault | cSeed | cEmit | cAdv | cEos | cClose | xSeed | xEmit | xGrow | xAdv
  | xClose => exact ⟨_, rfl⟩

/-- A host transaction answers a next state, but for an attach while EXPANDING (R239). -/
theorem hostMove_next {m : HostMove} {s : State}
    (h : ∀ src, m = .attach src → s.phase.mode ≠ .expanding) : ∃ t, hostMove m s = .next t := by
  cases m with
  | regRead | bufRead | reset => exact ⟨_, rfl⟩
  | regWrite idx v =>
    simp only [hostMove, hostRegWrite]
    split
    · obtain ⟨t, ht, -⟩ := cmd_effect v s
      exact ⟨t, ht⟩
    · split <;> exact ⟨_, rfl⟩
  | bufWrite a b =>
    simp only [hostMove, hostBufWrite]
    split <;> exact ⟨_, rfl⟩
  | attach src => exact ⟨_, if_neg (h src rfl)⟩

/-- A wait for a run that has ended is used up (R92). -/
theorem step_waited {s : State} {ts : List Turn} (h : s.turns = .wait :: ts) (he : s.ended = true) :
    step s = .next { s with turns := ts } := by
  simp only [step, takeTurn, h, if_pos he]

/-- Settles O4: an engine's turn is a step of its phase, a host's its transaction, and a wait of an
ended run is used up. -/
theorem stepNeverStops : Obligations.StepNeverStops := by
  intro s h hattach
  cases hu : s.engineTurn with
  | some u =>
    rw [step_engineTurn hu]
    exact engineStep_next (engineTurn_eq hu ▸ h.withTurns u.turns)
  | none =>
    unfold State.engineTurn at hu
    split at hu
    · cases hu
    · cases hu
    · next ts hts =>
      split at hu
      · next he => exact ⟨_, step_waited hts he⟩
      · cases hu
    · next m ts hts =>
      rw [step_host hts]
      exact hostMove_next fun src hm => hattach src ts (hm ▸ hts)

end Sys2Proof.Machine
end

section
/-! The INBUF port (20_memory R62, R63): the equation of each of its transactions. -/

namespace Sys2Proof.Machine

/-- R62, R63: a write while COMPRESSING or past the capacity has no effect. -/
theorem hostMove_bufWrite_dropped {s : State} {a : Word}
    (h : s.phase.mode = .compressing ∨ s.nMax.toNat ≤ a.toNat) (b : Byte) :
    hostMove (.bufWrite a b) s = .next s :=
  if_pos (h.imp_right Nat.not_lt.2)

/-- R222: a write inside INBUF outside a compress run stores its byte. -/
theorem hostMove_bufWrite_stored {s : State} {a : Word} (hc : s.phase.mode ≠ .compressing)
    (ha : a.toNat < s.nMax.toNat) (b : Byte) : hostMove (.bufWrite a b) s =
      .next { s with inbuf := Memory.write s.inbuf a.toNat b } :=
  if_neg (not_or.2 ⟨hc, not_not.2 ha⟩)

/-- R63: a read past the capacity answers zero. -/
theorem bufRead_of_nMax_le {s : State} {a : Word} (h : s.nMax.toNat ≤ a.toNat) :
    s.bufRead a = 0 :=
  if_neg (Nat.not_lt.2 h)

/-- R62, R63: a read is answered in every state; only the log of replies grows. -/
theorem hostMove_bufRead (s : State) (a : Word) : hostMove (.bufRead a) s =
    .next { s with replies := s.replies ++ [.buf a (s.bufRead a)] } := rfl

/-- Settles O11: the two cases of a write, then the value and the effect of a read; what INBUF reads
after the store is `bufRead_write`. -/
theorem inbufPort : Obligations.InbufPort := by
  refine ⟨?dropped, ?stored, ?pastCapacity, hostMove_bufRead⟩
  case dropped => exact fun _ _ b h => hostMove_bufWrite_dropped h b
  case stored =>
    exact fun s a b hc ha => ⟨_, hostMove_bufWrite_stored hc ha b, rfl, bufRead_write s a b ha⟩
  case pastCapacity => exact fun _ _ h => bufRead_of_nMax_le h

end Sys2Proof.Machine
end

section
/-! The decoder and the encoder (30_encoding R86, R87): one equation per row of what a word decodes to,
and that the row a word decodes to fits the context and has that word. -/

namespace Sys2Proof

open Machine

/-! ## What a word decodes to, row by row -/

theorem decodeCmdFree_invalid {op : Word} (h1 : op ≠ Config.opCompress) (h2 : op ≠ Config.opExpand) :
    decodeCmdFree op = .cmdInvalid op := by
  rw [decodeCmdFree, if_neg h1, if_neg h2]

/-- The byte of a byte's code is the byte (R83, R101). -/
theorem byteCode_setWidth_byte (b : Byte) : (byteCode b).setWidth 8 = b :=
  (BitVec.setWidth_setWidth_of_le b (by decide)).trans (BitVec.setWidth_eq b)

theorem decodeFirst_lit (b : Byte) : decodeFirst (byteCode b) = .cwFirstLit b := by
  have hle : (byteCode b).toNat ≤ 0xFF := by
    rw [byteCode_toNat]
    exact Nat.le_of_lt_succ b.isLt
  rw [decodeFirst, if_neg (byteCode_ne_eos b), if_pos hle, byteCode_setWidth_byte]

theorem decodeFirst_bad {k : Code} (h : 257 ≤ k.toNat) : decodeFirst k = .cwFirstBad k := by
  rw [decodeFirst, if_neg ((ne_eos_iff k).2 (by omega)), if_neg (by omega)]

theorem decodeNext_hit {nc : Counter} {k : Code} (hne : k ≠ Config.eos) (h : k.toNat < nc.toNat) :
    decodeNext nc k = .cwNextHit k := by
  rw [decodeNext, if_neg hne, if_pos h]

theorem decodeNext_selfref {nc : Counter} {k : Code} (hne : k ≠ Config.eos)
    (h : k.toNat = nc.toNat) : decodeNext nc k = .cwNextSelfref k := by
  rw [decodeNext, if_neg hne, if_neg (by omega), if_pos h]

theorem decodeNext_bad {nc : Counter} {k : Code} (hne : k ≠ Config.eos) (h : nc.toNat < k.toNat) :
    decodeNext nc k = .cwNextBad k := by
  rw [decodeNext, if_neg hne, if_neg (by omega), if_neg (by omega)]

/-! ## The row a word decodes to -/

/-- The contexts that read a later code (R87). -/
theorem Ctx.nextWith_iff {c : Ctx} {test : Counter → Bool} :
    c.nextWith test = true ↔ ∃ nc, c = .next nc ∧ test nc = true := by
  cases c <;> simp [Ctx.nextWith]

/-- A command word at rest decodes to a row that fits there and has this word (R84, R230). -/
theorem decodeCmdFree_fits (op : Word) :
    (decodeCmdFree op).fits .cmdFree = true ∧ encode (decodeCmdFree op) = .cmd op := by
  unfold decodeCmdFree
  split
  · next h => exact ⟨rfl, congrArg EncWord.cmd h.symm⟩
  · next h1 =>
    split
    · next h => exact ⟨rfl, congrArg EncWord.cmd h.symm⟩
    · next h2 => exact ⟨by simp [Instr.fits, h1, h2], rfl⟩

/-- A first code decodes to a row that fits there and has this code (R86). -/
theorem decodeFirst_fits (k : Code) :
    (decodeFirst k).fits .first = true ∧ encode (decodeFirst k) = .code k := by
  unfold decodeFirst
  split
  · next h => exact ⟨rfl, congrArg EncWord.code h.symm⟩
  · next hne =>
    have h256 : k.toNat ≠ 256 := (ne_eos_iff k).1 hne
    split
    · next hl => exact ⟨rfl, congrArg EncWord.code (byteCode_setWidth (by omega))⟩
    · next hl =>
      have hbad : 257 ≤ k.toNat := by omega
      exact ⟨by simp [Instr.fits, hbad], rfl⟩

/-- A later code decodes to a row that fits there and has this code, for every NEXT_CODE (R86). -/
theorem decodeNext_fits (nc : Counter) (k : Code) :
    (decodeNext nc k).fits (.next nc) = true ∧ encode (decodeNext nc k) = .code k := by
  by_cases hne : k = Config.eos
  · subst hne
    exact ⟨rfl, rfl⟩
  · rcases Nat.lt_trichotomy k.toNat nc.toNat with h | h | h
    · rw [decodeNext_hit hne h]
      exact ⟨by simp [Instr.fits, Ctx.nextWith, hne, h], rfl⟩
    · rw [decodeNext_selfref hne h]
      exact ⟨by simp [Instr.fits, Ctx.nextWith, hne, h], rfl⟩
    · rw [decodeNext_bad hne h]
      exact ⟨by simp [Instr.fits, Ctx.nextWith, hne, h], rfl⟩

/-! ## The statements -/

/-- Settles O56, row by row: what `fits` asks of the context and the operand is what the decoder tests,
so the equation of the row applies. -/
theorem decodeEncode : Obligations.DecodeEncode := by
  intro i c h
  cases i with
  | cmdCompress | cmdExpand | cmdWhileBusy | cwFirstEos =>
    obtain rfl := eq_of_beq h
    rfl
  | cmdInvalid op =>
    obtain ⟨⟨rfl, h1⟩, h2⟩ : (c = .cmdFree ∧ op ≠ Config.opCompress) ∧ op ≠ Config.opExpand := by
      simpa [Instr.fits] using h
    exact congrArg Except.ok (decodeCmdFree_invalid h1 h2)
  | cwFirstLit b =>
    obtain rfl := eq_of_beq h
    exact congrArg Except.ok (decodeFirst_lit b)
  | cwFirstBad k =>
    obtain ⟨rfl, hk⟩ : c = .first ∧ 257 ≤ k.toNat := by simpa [Instr.fits] using h
    exact congrArg Except.ok (decodeFirst_bad hk)
  | cwNextEos =>
    obtain ⟨nc, rfl, -⟩ := Ctx.nextWith_iff.1 h
    rfl
  | cwNextHit k =>
    obtain ⟨nc, rfl, hk⟩ := Ctx.nextWith_iff.1 h
    obtain ⟨hne, hlt⟩ : k ≠ Config.eos ∧ k.toNat < nc.toNat := by simpa using hk
    exact congrArg Except.ok (decodeNext_hit hne hlt)
  | cwNextSelfref k =>
    obtain ⟨nc, rfl, hk⟩ := Ctx.nextWith_iff.1 h
    obtain ⟨hne, heq⟩ : k ≠ Config.eos ∧ k.toNat = nc.toNat := by simpa using hk
    exact congrArg Except.ok (decodeNext_selfref hne heq)
  | cwNextBad k =>
    obtain ⟨nc, rfl, hk⟩ := Ctx.nextWith_iff.1 h
    obtain ⟨hne, hgt⟩ : k ≠ Config.eos ∧ nc.toNat < k.toNat := by simpa using hk
    exact congrArg Except.ok (decodeNext_bad hne hgt)

/-- The row a word decodes to, if it fits and has the word, is the only one: any other such row would
decode from the same word. -/
theorem exists_only_row {c : Ctx} {w : EncWord} {i : Instr} (hd : decode c w = .ok i)
    (hrow : i.fits c = true ∧ encode i = w) :
    ∃ i, decode c w = .ok i ∧ i.fits c = true ∧ encode i = w ∧
      ∀ j : Instr, j.fits c = true → encode j = w → j = i := by
  refine ⟨i, hd, hrow.1, hrow.2, fun j hj hw => ?_⟩
  have hdj : decode c w = .ok j := hw ▸ decodeEncode j c hj
  exact Except.ok.inj (hdj.symm.trans hd)

/-- Settles O57: each decoder's row fits and has its word, and by O56 no other row does; the other
format is rejected by the context alone. -/
theorem everyWordDecodes : Obligations.EveryWordDecodes := by
  refine ⟨?command, ?code, ?codeOnCommandPort, ?commandOnCodePort⟩
  case command =>
    rintro c op (rfl | rfl)
    · exact exists_only_row rfl (decodeCmdFree_fits op)
    · exact exists_only_row rfl ⟨rfl, rfl⟩
  case code =>
    rintro c k (rfl | ⟨nc, rfl⟩)
    · exact exists_only_row rfl (decodeFirst_fits k)
    · exact exists_only_row rfl (decodeNext_fits nc k)
  case codeOnCommandPort => rintro c k (rfl | rfl) <;> rfl
  case commandOnCodePort => rintro c op (rfl | ⟨nc, rfl⟩) <;> rfl

/-- Settles O58: each word is a literal, and the decoder evaluates to its row. -/
theorem specWordsDecode : Obligations.SpecWordsDecode :=
  ⟨rfl, rfl, rfl, rfl, rfl, rfl, rfl, rfl, rfl, rfl, rfl, rfl⟩

end Sys2Proof
end

section
/-! A code word off its context stops (30_encoding R87), and a step runs the instruction its word decodes
to (R86): a CMD write, the first code, a later EOS, the code being resolved. -/

namespace Sys2Proof.Machine

/-! ## The contexts of the code-word rows -/

theorem inFirst_iff {s : State} {k : Code} : s.inFirst k = true ↔ s.phase = .xFirst ∧ s.k = k := by
  simp [State.inFirst]

theorem inResolve_iff {s : State} {k : Code} :
    s.inResolve k = true ↔ s.phase = .xResolve ∧ s.k = k ∧ k ≠ Config.eos := by
  simp [State.inResolve, and_assoc]

theorem inNextEos_iff {s : State} :
    s.inNextEos = true ↔ (s.phase = .xRead ∨ s.phase = .xResolve) ∧ s.k = Config.eos := by
  simp [State.inNextEos]

/-- A row whose context does not hold stops by name. -/
theorem inContext_of_not {ok : Bool} (h : ¬ ok = true) (t : State) :
    inContext ok t = .fault .outOfContext :=
  if_neg h

/-- The rows of X_RESOLVE, each with its comparison of the code with NEXT_CODE, stop off their
context. -/
theorem inContext_resolve_of_not {s : State} {k : Code} {cmp : Prop} [Decidable cmp]
    (h : ¬ (s.phase = .xResolve ∧ s.k = k ∧ k ≠ 0x100 ∧ cmp)) (t : State) :
    inContext (s.inResolve k && decide cmp) t = .fault .outOfContext := by
  refine inContext_of_not (fun hok => h ?_) t
  obtain ⟨hres, hcmp⟩ := Bool.and_eq_true_iff.1 hok
  obtain ⟨hp, hk, hne⟩ := inResolve_iff.1 hres
  exact ⟨hp, hk, hne, of_decide_eq_true hcmp⟩

/-- Settles O29: each row is its effect in its context, and the context is the condition negated. -/
theorem codeWordOutOfContext : Obligations.CodeWordOutOfContext := by
  refine ⟨?firstEos, ?firstLit, ?firstBad, ?nextEos, ?nextHit, ?nextSelfref, ?nextBad⟩
  case firstEos => exact fun s h => inContext_of_not (mt inFirst_iff.1 h) _
  case firstLit => exact fun s b h => inContext_of_not (mt inFirst_iff.1 h) _
  case firstBad =>
    refine fun s k h => inContext_of_not (fun hok => h ?_) _
    obtain ⟨hfirst, hk⟩ := Bool.and_eq_true_iff.1 hok
    obtain ⟨hp, hcode⟩ := inFirst_iff.1 hfirst
    exact ⟨hp, hcode, of_decide_eq_true hk⟩
  case nextEos => exact fun s h => inContext_of_not (mt inNextEos_iff.1 h) _
  case nextHit => exact fun s k h => inContext_resolve_of_not h _
  case nextSelfref => exact fun s k h => inContext_resolve_of_not h _
  case nextBad => exact fun s k h => inContext_resolve_of_not h _

/-! ## The phases that read a code -/

/-- A CMD write runs what its word decodes to in the context of the state (R230, R232). -/
theorem decode_cmdCtx (s : State) (v : Word) :
    decode s.cmdCtx (.cmd v) = .ok (decodeCmd s.busy v) := by
  unfold State.cmdCtx decodeCmd
  cases s.busy <;> rfl

/-- With a code at the read position X_FIRST takes it and runs its instruction (R192). -/
theorem engineStep_xFirst {s : State} {k : Code} (hp : s.phase = .xFirst) (hk : s.srcCode = some k) :
    engineStep s = exec (decodeFirst k) (s.takeCode k) := by
  simp only [engineStep, hp, phaseXFirst, hk]

/-- With EOS at the read position X_READ takes it and runs CW_NEXT_EOS (R197, R198). -/
theorem engineStep_xRead_eos {s : State} (hp : s.phase = .xRead)
    (hk : s.srcCode = some Config.eos) :
    engineStep s = exec .cwNextEos (s.takeCode Config.eos) := by
  simp only [engineStep, hp, phaseXRead, hk, if_true]

/-- X_RESOLVE runs the instruction of the code in K (R199 to R201). -/
theorem engineStep_xResolve {s : State} (hp : s.phase = .xResolve) :
    engineStep s = exec (decodeNext s.nextCode s.k) s := by
  simp only [engineStep, hp, phaseXResolve]

/-- An engine turn leaves the state as it is but for the turns. -/
theorem exists_turns_of_engineTurn {s u : State} (hu : s.engineTurn = some u) :
    ∃ ts, u = { s with turns := ts } :=
  ⟨u.turns, engineTurn_eq hu⟩

/-- Settles O30: the turn says who steps, and the phase or the transaction runs what the decoder of its
context reads; an engine turn uses up a turn and changes nothing else. -/
theorem stepRunsDecodedInstruction : Obligations.StepRunsDecodedInstruction := by
  refine ⟨?cmdWrite, ?first, ?read, ?resolve, fun s u => step_engineTurn,
    fun s m ts => step_host, fun s ts => step_waited⟩
  case cmdWrite =>
    intro s v ts i hts hd
    obtain rfl := Except.ok.inj ((decode_cmdCtx s v).symm.trans hd)
    exact step_host hts
  case first =>
    intro s u k i hu hp hk hd
    obtain rfl := Except.ok.inj hd
    obtain ⟨ts, rfl⟩ := exists_turns_of_engineTurn hu
    exact (step_engineTurn hu).trans (engineStep_xFirst hp hk)
  case read =>
    intro s u i hu hp hk hd
    obtain rfl := Except.ok.inj hd
    obtain ⟨ts, rfl⟩ := exists_turns_of_engineTurn hu
    exact (step_engineTurn hu).trans (engineStep_xRead_eos hp hk)
  case resolve =>
    intro s u i hu hp hd
    obtain rfl := Except.ok.inj hd
    obtain ⟨ts, rfl⟩ := exists_turns_of_engineTurn hu
    exact (step_engineTurn hu).trans (engineStep_xResolve hp)

end Sys2Proof.Machine
end

section
/-! Which step delivers which event (30_encoding R91, 44_host_interface R224). -/

namespace Sys2Proof.Machine

/-- Fault entry in an expand run delivers Abort (R252). -/
theorem takeFault_aborts {s : State} (h : s.phase.mode = .expanding) (c : Cause) (x : Code) :
    s.phase.mode = .expanding ∧ (s.takeFault c x).phase = .fault ∧
      (s.takeFault c x).sink = s.sink ++ [.abort] := by
  rw [takeFault_busy ((busy_iff s).2 (.inr h))]
  exact ⟨h, rfl, rfl⟩

/-- A phase delivers at most one event, and which one its phase says (R91). -/
theorem EngineMove.sink_cases {s t : State} (hm : EngineMove s t) :
    t.sink = s.sink ∨
    (s.phase = .cEmit ∧ t.sink = s.sink ++ [.code s.bestCode]) ∨
    (s.phase = .cEos ∧ t.sink = s.sink ++ [.code Config.eos]) ∨
    (s.phase = .xPop ∧ ∃ b, t.sink = s.sink ++ [.byte b]) ∨
    ((s.phase = .cClose ∨ s.phase = .xClose) ∧ t.phase = .done ∧ t.sink = s.sink ++ [.close]) ∨
    (s.phase.mode = .expanding ∧ t.phase = .fault ∧ t.sink = s.sink ++ [.abort]) := by
  cases hm
  case cEmit h => exact .inr (.inl ⟨h, rfl⟩)
  case cEos h => exact .inr (.inr (.inl ⟨h, rfl⟩))
  case pop h _ _ => exact .inr (.inr (.inr (.inl ⟨h, _, rfl⟩)))
  case cClose h => exact .inr (.inr (.inr (.inr (.inl ⟨.inl h, rfl, rfl⟩))))
  case xClose h => exact .inr (.inr (.inr (.inr (.inl ⟨.inr h, rfl, rfl⟩))))
  case truncated h _ =>
    have hx : s.phase.mode = .expanding := by rcases h with h | h <;> rw [h] <;> rfl
    exact .inr (.inr (.inr (.inr (.inr (takeFault_aborts hx ..)))))
  case firstBad h k _ _ =>
    have hx : (s.takeCode k).phase.mode = .expanding := congrArg Phase.mode h
    exact .inr (.inr (.inr (.inr (.inr (takeFault_aborts hx ..)))))
  case resolveBad h _ _ =>
    have hx : s.phase.mode = .expanding := congrArg Phase.mode h
    exact .inr (.inr (.inr (.inr (.inr (takeFault_aborts hx ..)))))
  all_goals exact .inl (by simp)

/-- A CMD write at rest delivers nothing, for it ends no run (R231, R233). -/
theorem CmdEffect.sink_of_not_busy {v : Word} {s t : State} (he : CmdEffect v s t)
    (hb : s.busy = false) : t.sink = s.sink := by
  cases he with
  | abort hb' => simp [hb] at hb'
  | tooLong | compress | expand | usage => simp [hb]

/-- The host delivers nothing, but for the Abort of a CMD write while busy (R224, R232). -/
theorem HostEffect.sink_cases {m : HostMove} {s t : State} (he : HostEffect m s t) :
    t.sink = s.sink ∨
    (∃ v, m = .regWrite 0 v ∧ s.busy = true ∧ t.phase = .fault ∧ t.sink = s.sink ++ [.abort]) := by
  cases he with
  | cmd v hm _ hc =>
    cases hb : s.busy with
    | false => exact .inl (hc.sink_of_not_busy hb)
    | true =>
      rw [hc.aborts hb, takeFault_busy hb]
      exact .inr ⟨v, hm, rfl, rfl, rfl⟩
  | regRead | inLen | ignored | bufRead | dropped | bufWrite | attach | reset => exact .inl rfl

/-- Settles O54: every next state of the engine is one of its moves, every next state of the host one of
its effects. -/
theorem eventsByPhase : Obligations.EventsByPhase :=
  ⟨fun _ _ ht => (engineStep_moves ht).sink_cases,
    fun _ _ _ ht => (hostMove_effects ht).sink_cases⟩

end Sys2Proof.Machine
end

section
/-! The child trees of the trie (40_prefix_dictionary R114): what their search finds, and where a search
falls off. A position of the trie is a node and one of its three links. -/

namespace Sys2Proof.Machine

/-! ## Sides and links -/

/-- Where the search of R114 for the byte `b` goes at a node: `eq` where the node holds `b`. -/
def sideOf (m : Node) (b : Byte) : Dir :=
  if b < m.c then .lo else if m.c < b then .hi else .eq

theorem sideOf_eq_lo_iff {m : Node} {b : Byte} : sideOf m b = .lo ↔ b < m.c := by
  unfold sideOf
  split_ifs <;> simp_all

theorem sideOf_eq_hi_iff {m : Node} {b : Byte} : sideOf m b = .hi ↔ m.c < b := by
  unfold sideOf
  split_ifs <;> simp_all
  bv_omega

theorem sideOf_eq_eq_iff {m : Node} {b : Byte} : sideOf m b = .eq ↔ b = m.c := by
  unfold sideOf
  split_ifs <;> simp <;> bv_omega

theorem State.nodeOk.link_bound {s : State} {k : Code} (h : s.nodeOk k) {d : Dir}
    (hd : linkOf (s.nodeAt k) d ≠ Config.nil) : s.bound (linkOf (s.nodeAt k) d) := by
  obtain ⟨-, -, hb⟩ := h.link hd
  exact hb

/-! ## Nodes of a child tree -/

theorem State.InTree.ne_nil {s : State} {p q : Code} (h : s.InTree p q) : p ≠ Config.nil := by
  cases h <;> assumption

/-- The subtrees under lo and hi, as one. -/
theorem State.InTree.child {s : State} {p q : Code} {d : Dir} (hp : p ≠ Config.nil) (hd : d ≠ .eq)
    (h : s.InTree (linkOf (s.nodeAt p) d) q) : s.InTree p q := by
  cases d with
  | lo => exact .lo p q hp h
  | eq => exact absurd rfl hd
  | hi => exact .hi p q hp h

/-- Induction on the way down to `q`, with lo and hi as one case. -/
theorem State.InTree.link_induction {s : State} {q : Code}
    {motive : (p : Code) → s.InTree p q → Prop}
    (here : ∀ hq : q ≠ Config.nil, motive q (.here q hq))
    (child : ∀ (p : Code) (d : Dir) (hp : p ≠ Config.nil) (hd : d ≠ .eq)
      (h : s.InTree (linkOf (s.nodeAt p) d) q), motive _ h → motive p (h.child hp hd))
    {p : Code} (h : s.InTree p q) : motive p h := by
  induction h with
  | here q hq => exact here hq
  | lo p q hp h ih => exact child p .lo hp (by decide) h (ih here child)
  | hi p q hp h ih => exact child p .hi hp (by decide) h (ih here child)

theorem State.InTree.bound {s : State} (h : ∀ k, s.bound k → s.nodeOk k) {p q : Code}
    (ht : s.InTree p q) (hp : s.bound p) : s.bound q := by
  induction ht using State.InTree.link_induction with
  | here => exact hp
  | child p d _ _ ht ih => exact ih ((h p hp).link_bound ht.ne_nil)

/-- The order of R114, both sides as one. -/
theorem trieOrdered_iff {s : State} : s.TrieOrdered ↔ ∀ p q d, s.bound p → d ≠ .eq →
    s.InTree (linkOf (s.nodeAt p) d) q → sideOf (s.nodeAt p) (s.nodeAt q).c = d := by
  constructor
  · intro h p q d hp hd ht
    obtain ⟨hlo, hhi⟩ := h p q hp
    cases d with
    | lo => exact sideOf_eq_lo_iff.2 (hlo ht)
    | eq => exact absurd rfl hd
    | hi => exact sideOf_eq_hi_iff.2 (hhi ht)
  · exact fun h p q hp => ⟨fun ht => sideOf_eq_lo_iff.1 (h p q .lo hp (by decide) ht),
      fun ht => sideOf_eq_hi_iff.1 (h p q .hi hp (by decide) ht)⟩

/-! ## The search of a child tree -/

@[simp] theorem childOf_nil (s : State) (b : Byte) (fuel : Nat) :
    s.childOf b fuel Config.nil = none := by
  cases fuel <;> simp [State.childOf]

/-- One visit of the search of R114. -/
theorem childOf_visit_succ (s : State) (b : Byte) (fuel : Nat) {p : Code} (hp : p ≠ Config.nil) :
    s.childOf b (fuel + 1) p =
      if sideOf (s.nodeAt p) b = .eq then some p
      else s.childOf b fuel (linkOf (s.nodeAt p) (sideOf (s.nodeAt p) b)) := by
  rw [State.childOf, if_neg hp, sideOf]
  by_cases h1 : b < (s.nodeAt p).c
  · simp [h1, linkOf]
  · by_cases h2 : (s.nodeAt p).c < b <;> simp [h1, h2, linkOf]

/-- What the search finds is a node of the tree that holds the byte. -/
theorem inTree_of_childOf {s : State} {b : Byte} {fuel : Nat} {p q : Code}
    (h : s.childOf b fuel p = some q) : s.InTree p q ∧ (s.nodeAt q).c = b := by
  induction fuel generalizing p with
  | zero => cases h
  | succ fuel ih =>
    by_cases hp : p = Config.nil
    · rw [hp, childOf_nil] at h
      cases h
    rw [childOf_visit_succ s b fuel hp] at h
    split at h
    · next hside =>
      cases h
      exact ⟨.here _ hp, (sideOf_eq_eq_iff.1 hside).symm⟩
    · next hside => exact (ih h).imp_left (.child hp hside)

/-- Links lead to later codes, so fuel for the codes from `p` on is enough (R112, R122). -/
theorem childOf_succ {s : State} (h : ∀ k, s.bound k → s.nodeOk k) (b : Byte) {fuel : Nat}
    {p : Code} (hp : s.bound p) (hf : 4096 ≤ p.toNat + fuel) :
    s.childOf b (fuel + 1) p = s.childOf b fuel p := by
  induction fuel generalizing p with
  | zero => exact absurd p.isLt (by omega)
  | succ fuel ih =>
    rw [childOf_visit_succ s b _ hp.ne_nil, childOf_visit_succ s b _ hp.ne_nil]
    congr 1
    by_cases hd : linkOf (s.nodeAt p) (sideOf (s.nodeAt p) b) = Config.nil
    · rw [hd, childOf_nil, childOf_nil]
    · obtain ⟨-, hlt, hb⟩ := (h p hp).link hd
      exact ih hb (by omega)

/-- One visit of the search, which the fuel of the model never cuts short. -/
theorem childOf_visit {s : State} (h : ∀ k, s.bound k → s.nodeOk k) (b : Byte) {p : Code}
    (hp : s.bound p) : s.childOf b Config.arenaSize p =
      if sideOf (s.nodeAt p) b = .eq then some p
      else s.childOf b Config.arenaSize (linkOf (s.nodeAt p) (sideOf (s.nodeAt p) b)) := by
  rw [← childOf_visit_succ s b _ hp.ne_nil]
  exact (childOf_succ h b hp (Nat.le_add_left _ _)).symm

/-- In an ordered tree the search finds every node (R114). -/
theorem State.InTree.childOf {s : State} (h : ∀ k, s.bound k → s.nodeOk k) (ho : s.TrieOrdered)
    {p q : Code} (hp : s.bound p) (ht : s.InTree p q) :
    s.childOf (s.nodeAt q).c Config.arenaSize p = some q := by
  induction ht using State.InTree.link_induction with
  | here => rw [childOf_visit h _ hp, if_pos (sideOf_eq_eq_iff.2 rfl)]
  | child p d _ hd ht ih =>
    rw [childOf_visit h _ hp, trieOrdered_iff.1 ho p q d hp hd ht, if_neg hd]
    exact ih ((h p hp).link_bound ht.ne_nil)

/-! ## Positions -/

/-- The position (m, e) is (p, d) or lies in the child tree that hangs from it. -/
inductive State.Below (s : State) (p : Code) (d : Dir) : Code → Dir → Prop
  | here : State.Below s p d p d
  | step {m q : Code} {e e' : Dir} (h : State.Below s p d m e) (hq : linkOf (s.nodeAt m) e = q)
      (hnil : q ≠ Config.nil) (he : e' ≠ .eq) : State.Below s p d q e'

/-- The search for the byte `b` among the children of `n` falls to the position (m, e): `b` belongs on
that side of every node on the way. -/
def State.Search (s : State) (b : Byte) (n m : Code) (e : Dir) : Prop :=
  s.Below n .eq m e ∧
    ∀ p d, s.bound p → d ≠ .eq → s.Below p d m e → sideOf (s.nodeAt p) b = d

/-- Each node is linked from one position only. -/
def State.LinkedOnce (s : State) : Prop :=
  ∀ m m' d d', s.bound m → s.bound m' → linkOf (s.nodeAt m) d ≠ Config.nil →
    linkOf (s.nodeAt m) d = linkOf (s.nodeAt m') d' → m = m' ∧ d = d'

theorem State.Below.bound {s : State} (h : ∀ k, s.bound k → s.nodeOk k) {p m : Code} {d e : Dir}
    (hb : s.Below p d m e) (hp : s.bound p) : s.bound m := by
  induction hb with
  | here => exact hp
  | step _ hq hnil _ ih => exact hq ▸ (h _ ih).link_bound (hq ▸ hnil)

/-- A position in a subtree of `q` lies below the link to `q`. -/
theorem State.Below.of_link {s : State} {p q m : Code} {d e e' : Dir}
    (hb : s.Below q e' m e) (hq : linkOf (s.nodeAt p) d = q) (hnil : q ≠ Config.nil)
    (he : e' ≠ .eq) : s.Below p d m e := by
  induction hb with
  | here => exact .step .here hq hnil he
  | step _ hq' hnil' he' ih => exact .step ih hq' hnil' he'

/-- The way to a position other than its own node comes in by the one link to that node. -/
theorem State.Below.of_linkedOnce {s : State} (h : ∀ k, s.bound k → s.nodeOk k)
    (hl : s.LinkedOnce) {p m q : Code} {d e e' : Dir} (hb : s.Below p d q e') (hp : s.bound p)
    (hm : s.bound m) (hq : linkOf (s.nodeAt m) e = q) (hnil : q ≠ Config.nil) :
    q = p ∧ e' = d ∨ s.Below p d m e := by
  cases hb with
  | here => exact .inl ⟨rfl, rfl⟩
  | step hb hq' _ _ =>
    obtain ⟨rfl, rfl⟩ := hl _ _ _ _ (hb.bound h hp) hm (hq' ▸ hnil) (hq'.trans hq.symm)
    exact .inr hb

/-- What hangs from a position hangs from every position above it. -/
theorem State.Below.inTree {s : State} {p m q : Code} {d e : Dir} (hb : s.Below p d m e)
    (ht : s.InTree (linkOf (s.nodeAt m) e) q) : s.InTree (linkOf (s.nodeAt p) d) q := by
  induction hb with
  | here => exact ht
  | step _ hq hnil he ih => exact ih (hq ▸ ht.child hnil he)

theorem search_start (s : State) (b : Byte) (n : Code) : s.Search b n n .eq :=
  ⟨.here, fun p d _ hd hb => by
    cases hb with
    | here => exact absurd rfl hd
    | step _ _ _ he => exact absurd rfl he⟩

/-- A visit of a node whose byte differs takes the search to that node's side (R115). -/
theorem State.Search.visit {s : State} (h : ∀ k, s.bound k → s.nodeOk k) (hl : s.LinkedOnce)
    {b : Byte} {n m q : Code} {e : Dir} (hs : s.Search b n m e) (hm : s.bound m)
    (hq : linkOf (s.nodeAt m) e = q) (hnil : q ≠ Config.nil) (hne : sideOf (s.nodeAt q) b ≠ .eq) :
    s.Search b n q (sideOf (s.nodeAt q) b) := by
  obtain ⟨hbelow, hside⟩ := hs
  refine ⟨.step hbelow hq hnil hne, fun p d hp hd hb => ?_⟩
  rcases hb.of_linkedOnce h hl hp hm hq hnil with ⟨rfl, rfl⟩ | hb
  · rfl
  · exact hside p d hp hd hb

/-- Where the search falls to, the rest of the search is that from the link there. -/
theorem State.Search.childOf_eq {s : State} (h : ∀ k, s.bound k → s.nodeOk k) {b : Byte}
    {n m : Code} {e : Dir} (hs : s.Search b n m e) (hn : s.bound n) :
    s.childOf b Config.arenaSize (s.nodeAt n).eq =
      s.childOf b Config.arenaSize (linkOf (s.nodeAt m) e) := by
  obtain ⟨hbelow, hside⟩ := hs
  induction hbelow with
  | here => rfl
  | step hb hq hnil he ih =>
    have hbound := (hb.step hq hnil he).bound h hn
    rw [ih fun p d hp hd hb' => hside p d hp hd (.step hb' hq hnil he), hq,
      childOf_visit h b hbound, hside _ _ hbound he .here, if_neg he]

end Sys2Proof.Machine
end

section
/-! The trie as a dictionary (40_prefix_dictionary R114, R119): which node a sequence leads to, and which
sequence a node stands for. `State.TrieOk` is what a compress run keeps of its trie. -/

namespace Sys2Proof.Machine

/-! ## The way down -/

theorem descend_cons (s : State) (p : Code) (b : Byte) (x : Seq) :
    s.descend p (b :: x) =
      (s.childOf b Config.arenaSize (s.nodeAt p).eq).bind fun q => s.descend q x := by
  rw [State.descend]
  cases s.childOf b Config.arenaSize (s.nodeAt p).eq <;> rfl

theorem descend_append (s : State) (p : Code) (x y : Seq) :
    s.descend p (x ++ y) = (s.descend p x).bind fun q => s.descend q y := by
  induction x generalizing p with
  | nil => rfl
  | cons b x ih =>
    rw [List.cons_append, descend_cons, descend_cons, Option.bind_assoc]
    simp only [ih]

theorem descend_concat (s : State) (p : Code) (x : Seq) (b : Byte) :
    s.descend p (x ++ [b]) =
      (s.descend p x).bind fun q => s.childOf b Config.arenaSize (s.nodeAt q).eq := by
  rw [descend_append]
  congr 1
  funext q
  rw [descend_cons]
  exact Option.bind_fun_some _

/-- The search from an `eq` link finds bound nodes only. -/
theorem bound_of_childOf_eq {s : State} (h : ∀ k, s.bound k → s.nodeOk k) {b : Byte} {p q : Code}
    (hp : s.bound p) (hq : s.childOf b Config.arenaSize (s.nodeAt p).eq = some q) : s.bound q := by
  obtain ⟨ht, -⟩ := inTree_of_childOf hq
  exact ht.bound h ((h p hp).link_bound (d := .eq) ht.ne_nil)

theorem bound_of_descend {s : State} (h : ∀ k, s.bound k → s.nodeOk k) {x : Seq} {p q : Code}
    (hp : s.bound p) (hq : s.descend p x = some q) : s.bound q := by
  induction x generalizing p with
  | nil => cases hq; exact hp
  | cons b x ih =>
    rw [descend_cons, Option.bind_eq_some_iff] at hq
    obtain ⟨r, hr, hq⟩ := hq
    exact ih (bound_of_childOf_eq h hp hr) hq

theorem bound_byteCode {s : State} (hlow : 257 ≤ s.nextCode.toNat) (b : Byte) :
    s.bound (byteCode b) :=
  bound_of_lt ((byteCode_toNat b).symm ▸ b.isLt) hlow

/-- A node's code is its index (R112), so a lookup answers the node it reaches. -/
theorem trieLookup_cons {s : State} (h : ∀ k, s.bound k → s.nodeOk k)
    (hlow : 257 ≤ s.nextCode.toNat) (b : Byte) (x : Seq) :
    s.trieLookup (b :: x) = s.descend (byteCode b) x := by
  have hroot := bound_byteCode hlow b
  rw [State.trieLookup]
  cases hq : s.descend (byteCode b) x with
  | none => rfl
  | some q => exact congrArg some (h q (bound_of_descend h hroot hq)).code

theorem bound_of_trieLookup {s : State} (h : ∀ k, s.bound k → s.nodeOk k)
    (hlow : 257 ≤ s.nextCode.toNat) {x : Seq} {q : Code} (hq : s.trieLookup x = some q) :
    s.bound q := by
  cases x with
  | nil => cases hq
  | cons b x =>
    rw [trieLookup_cons h hlow] at hq
    exact bound_of_descend h (bound_byteCode hlow b) hq

/-- One byte more is one search more, among the children of the node reached. -/
theorem trieLookup_concat {s : State} (h : ∀ k, s.bound k → s.nodeOk k)
    (hlow : 257 ≤ s.nextCode.toNat) {x : Seq} {p : Code} (hp : s.trieLookup x = some p) (b : Byte) :
    s.trieLookup (x ++ [b]) = s.childOf b Config.arenaSize (s.nodeAt p).eq := by
  cases x with
  | nil => cases hp
  | cons a x =>
    rw [trieLookup_cons h hlow] at hp
    rw [List.cons_append, trieLookup_cons h hlow, descend_concat, hp]
    rfl

/-- The way to a key leads through keys: what extends a sequence that is no key is none (R103). -/
theorem trieLookup_append_none {s : State} {x : Seq} (hx : x ≠ []) (hnone : s.trieLookup x = none)
    (y : Seq) : s.trieLookup (x ++ y) = none := by
  cases x with
  | nil => exact absurd rfl hx
  | cons b x =>
    rw [State.trieLookup, Option.map_eq_none_iff] at hnone
    rw [List.cons_append, State.trieLookup, descend_append, hnone]
    rfl

/-! ## The sequence of a node -/

/-- seq(k) of R114: the sequence the code `k` was bound to. -/
def State.keyOf (s : State) (k : Code) : Seq := (tableLookup s.assigns k).getD []

/-- The sequence that every node hanging from the position (m, d) extends by its byte: that of `m` under
`eq`, and that of the parent of `m` under lo and hi (R114). -/
def State.keyBefore (s : State) (m : Code) (d : Dir) : Seq :=
  if d = .eq then s.keyOf m else (s.keyOf m).dropLast

/-- Each link leads to a node whose sequence extends that of its parent by the node's byte (R114). -/
def State.KeysLinked (s : State) : Prop :=
  ∀ m d, s.bound m → linkOf (s.nodeAt m) d ≠ Config.nil →
    s.keyOf (linkOf (s.nodeAt m) d) = s.keyBefore m d ++ [(s.nodeAt (linkOf (s.nodeAt m) d)).c]

theorem keyOf_byteCode (s : State) (b : Byte) : s.keyOf (byteCode b) = [b] := by
  have hlit : classOf (byteCode b) = .lit :=
    if_pos (by rw [byteCode_toNat]; exact Nat.le_of_lt_succ b.isLt)
  have hbyte : litByte (byteCode b) = b := byteCode_setWidth_byte b
  rw [State.keyOf, tableLookup, hlit, hbyte]
  rfl

/-- The positions of one child tree are those of one parent. -/
theorem State.Below.keyBefore_eq {s : State} (h : ∀ k, s.bound k → s.nodeOk k) (hk : s.KeysLinked)
    {p m : Code} {d e : Dir} (hb : s.Below p d m e) (hp : s.bound p) :
    s.keyBefore m e = s.keyBefore p d := by
  induction hb with
  | here => rfl
  | @step m q e e' hb hq hnil he ih =>
    subst hq
    rw [← ih, State.keyBefore, if_neg he, hk m e (hb.bound h hp) hnil, List.dropLast_concat]

/-- A node of the tree at a link extends the parent's sequence by its own byte (R114). -/
theorem State.InTree.keyOf_eq {s : State} (h : ∀ k, s.bound k → s.nodeOk k) (hk : s.KeysLinked)
    {x q : Code} (ht : s.InTree x q) {p : Code} {d : Dir} (hx : linkOf (s.nodeAt p) d = x)
    (hp : s.bound p) : s.keyOf q = s.keyBefore p d ++ [(s.nodeAt q).c] := by
  induction ht using State.InTree.link_induction generalizing p d with
  | here hq => subst hx; exact hk p d hp hq
  | child x e hnil he ht ih =>
    have hbound : s.bound x := hx ▸ (h p hp).link_bound (hx ▸ hnil)
    rw [ih rfl hbound, (State.Below.here.step hx hnil he).keyBefore_eq h hk hp]

theorem keyOf_of_descend {s : State} (h : ∀ k, s.bound k → s.nodeOk k) (hk : s.KeysLinked)
    {x : Seq} {p q : Code} (hp : s.bound p) (hq : s.descend p x = some q) :
    s.keyOf q = s.keyOf p ++ x := by
  induction x generalizing p with
  | nil => cases hq; exact (List.append_nil _).symm
  | cons b x ih =>
    rw [descend_cons, Option.bind_eq_some_iff] at hq
    obtain ⟨r, hr, hq⟩ := hq
    obtain ⟨ht, rfl⟩ := inTree_of_childOf hr
    have hkey : s.keyOf r = s.keyOf p ++ [(s.nodeAt r).c] := ht.keyOf_eq h hk (d := .eq) rfl hp
    rw [ih (bound_of_childOf_eq h hp hr) hq, hkey, List.append_assoc]
    rfl

/-- A lookup answers the code of the sequence looked up. -/
theorem keyOf_of_trieLookup {s : State} (h : ∀ k, s.bound k → s.nodeOk k) (hk : s.KeysLinked)
    (hlow : 257 ≤ s.nextCode.toNat) {x : Seq} {q : Code} (hq : s.trieLookup x = some q) :
    s.keyOf q = x := by
  cases x with
  | nil => cases hq
  | cons b x =>
    rw [trieLookup_cons h hlow] at hq
    rw [keyOf_of_descend h hk (bound_byteCode hlow b) hq, keyOf_byteCode]
    rfl

/-! ## The trie of a run -/

/-- What every phase past C_SEED keeps of the trie: its nodes and links are in order, and it represents
the dictionary. -/
structure State.TrieOk (s : State) : Prop where
  seeded : 257 ≤ s.nextCode.toNat
  nodes : ∀ k, s.bound k → s.nodeOk k
  once : s.LinkedOnce
  keys : s.KeysLinked
  ordered : s.TrieOrdered
  lookup : ∀ x, s.trieLookup x = dictLookup s.assigns x

/-- Once the run is seeded D is decided by the learned bindings (R42). -/
theorem State.TrieOk.dict_eq {s : State} (h : s.TrieOk) (x : Seq) :
    s.dict x = dictLookup s.assigns x := by
  refine if_neg fun hzero => ?_
  have hlow := h.seeded
  rw [hzero] at hlow
  exact absurd hlow (by decide)

/-! ## Reading alike -/

theorem childOf_congr {s t : State} (h : ∀ p, t.nodeAt p = s.nodeAt p) (b : Byte) (fuel : Nat)
    (p : Code) : t.childOf b fuel p = s.childOf b fuel p := by
  induction fuel generalizing p with
  | zero => rfl
  | succ fuel ih => simp only [State.childOf, h, ih]

theorem descend_congr {s t : State} (h : ∀ p, t.nodeAt p = s.nodeAt p) (p : Code) (x : Seq) :
    t.descend p x = s.descend p x := by
  induction x generalizing p with
  | nil => rfl
  | cons b x ih => simp only [descend_cons, childOf_congr h, h, ih]

theorem trieLookup_congr {s t : State} (h : ∀ p, t.nodeAt p = s.nodeAt p) (x : Seq) :
    t.trieLookup x = s.trieLookup x := by
  cases x with
  | nil => rfl
  | cons b x => simp only [State.trieLookup, descend_congr h, h]

theorem State.InTree.congr {s t : State} (h : ∀ p, t.nodeAt p = s.nodeAt p) {p q : Code}
    (ht : s.InTree p q) : t.InTree p q := by
  induction ht with
  | here p hp => exact .here p hp
  | lo p q hp _ ih => exact .lo p q hp ((h p).symm ▸ ih)
  | hi p q hp _ ih => exact .hi p q hp ((h p).symm ▸ ih)

theorem State.Below.congr {s t : State} (h : ∀ p, t.nodeAt p = s.nodeAt p) {p m : Code} {d e : Dir}
    (hb : s.Below p d m e) : t.Below p d m e := by
  induction hb with
  | here => exact .here
  | step _ hq hnil he ih => exact .step ih ((congrArg (linkOf · _) (h _)).trans hq) hnil he

/-- Nothing but the arena, NEXT_CODE and the bindings decides the trie. -/
theorem State.TrieOk.congr {s t : State} (h : s.TrieOk) (hn : t.node = s.node)
    (he : t.epoch = s.epoch) (hc : t.nextCode = s.nextCode) (ha : t.assigns = s.assigns) :
    t.TrieOk := by
  have hat : ∀ p, t.nodeAt p = s.nodeAt p := nodeAt_congr hn he
  have hb : ∀ k, t.bound k ↔ s.bound k := fun k => by rw [bound_iff, bound_iff, hc]
  have hkey : ∀ k, t.keyOf k = s.keyOf k := fun k => by rw [State.keyOf, State.keyOf, ha]
  constructor
  case seeded => rw [hc]; exact h.seeded
  case nodes =>
    intro k hk
    simpa only [State.nodeOk, hn, hat, hb] using h.nodes k ((hb k).1 hk)
  case once => simpa only [State.LinkedOnce, hat, hb] using h.once
  case keys => simpa only [State.KeysLinked, State.keyBefore, hat, hb, hkey] using h.keys
  case ordered =>
    intro p q hp
    obtain ⟨hlo, hhi⟩ := h.ordered p q ((hb p).1 hp)
    rw [hat, hat]
    have hback : ∀ r, s.nodeAt r = t.nodeAt r := fun r => (hat r).symm
    exact ⟨fun ht => hlo (ht.congr hback), fun ht => hhi (ht.congr hback)⟩
  case lookup => intro x; rw [trieLookup_congr hat, ha, h.lookup]

end Sys2Proof.Machine
end

section
/-! TRIE_INSERT keeps the trie in order (40_prefix_dictionary R117, R119): the new node is a leaf that hangs
from the recorded miss, and adds the one key of its sequence. -/

namespace Sys2Proof.Machine

/-- What TRIE_INSERT rests on (R108, R116, R117): the walk matched the sequence of BEST_CODE, the search
for the next byte `b` fell off at the recorded miss, and the next code is free. -/
structure State.InsertReady (s : State) (b : Byte) : Prop where
  trie : s.TrieOk
  matched : MatchInv s
  best : s.trieLookup (s.inbufSlice s.i s.bestLen.toNat) = some s.bestCode
  search : s.Search b s.bestCode s.missNode s.missDir
  miss_nil : linkOf (s.nodeAt s.missNode) s.missDir = Config.nil
  slice : s.inbufSlice s.i (s.bestLen.toNat + 1) = s.inbufSlice s.i s.bestLen.toNat ++ [b]
  room : s.nextCode.toNat < 4096
  free : tableLookup s.assigns (codeOfCounter s.nextCode) = none

namespace State.InsertReady

variable {s : State} {b : Byte} (h : s.InsertReady b)

include h

/-! ## Bound codes and nodes -/

theorem bound_iff (k : Code) :
    (s.trieInsert b).bound k ↔ k = codeOfCounter s.nextCode ∨ s.bound k :=
  bound_succ_iff h.room h.trie.seeded (counter_succ h.room) k

theorem bound_ne {k : Code} (hk : s.bound k) : k ≠ codeOfCounter s.nextCode :=
  bound_codeOfCounter_ne h.room hk

theorem nodes : ∀ k, (s.trieInsert b).bound k → (s.trieInsert b).nodeOk k :=
  nodeOk_trieInsert h.trie.nodes h.matched h.trie.seeded h.room b

theorem nodeAt_new :
    (s.trieInsert b).nodeAt (codeOfCounter s.nextCode) = newNode b (codeOfCounter s.nextCode) := by
  rw [nodeAt_trieInsert s b _ (h.bound_ne h.matched.miss_bound),
    if_neg (h.bound_ne h.matched.miss_bound).symm, if_pos rfl]

theorem link_new (d : Dir) :
    linkOf ((s.trieInsert b).nodeAt (codeOfCounter s.nextCode)) d = Config.nil := by
  rw [h.nodeAt_new]
  cases d <;> rfl

theorem c_old {q : Code} (hq : s.bound q) :
    ((s.trieInsert b).nodeAt q).c = (s.nodeAt q).c := by
  rw [nodeAt_trieInsert s b q (h.bound_ne h.matched.miss_bound)]
  split
  · next hm => rw [setLink_c, hm]
  · rw [if_neg (h.bound_ne hq)]

/-- The links of the old nodes: one is set, to the new node. -/
theorem link_cases {m : Code} (hm : s.bound m) (d : Dir) :
    m = s.missNode ∧ d = s.missDir ∧
        linkOf ((s.trieInsert b).nodeAt m) d = codeOfCounter s.nextCode ∨
      linkOf ((s.trieInsert b).nodeAt m) d = linkOf (s.nodeAt m) d := by
  rw [nodeAt_trieInsert s b m (h.bound_ne h.matched.miss_bound)]
  split
  · next hmiss =>
    rw [linkOf_setLink]
    split
    · next hd => exact .inl ⟨hmiss, hd, rfl⟩
    · exact .inr (by rw [hmiss])
  · rw [if_neg (h.bound_ne hm)]
    exact .inr rfl

/-- No link that led to a node is changed. -/
theorem link_kept {m : Code} (hm : s.bound m) {d : Dir} (hd : linkOf (s.nodeAt m) d ≠ Config.nil) :
    linkOf ((s.trieInsert b).nodeAt m) d = linkOf (s.nodeAt m) d := by
  rcases h.link_cases hm d with ⟨rfl, rfl, -⟩ | hl
  · exact absurd h.miss_nil hd
  · exact hl

theorem link_miss : linkOf ((s.trieInsert b).nodeAt s.missNode) s.missDir =
    codeOfCounter s.nextCode := by
  rw [nodeAt_trieInsert s b _ (h.bound_ne h.matched.miss_bound), if_pos rfl, linkOf_setLink,
    if_pos rfl]

theorem linkedOnce : (s.trieInsert b).LinkedOnce := by
  intro m m' d d' hm hm' hnil heq
  rcases (h.bound_iff m).1 hm with rfl | hm
  · exact absurd (h.link_new d) hnil
  rcases (h.bound_iff m').1 hm' with rfl | hm'
  · exact absurd (heq.trans (h.link_new d')) hnil
  have hold : ∀ {p e}, s.bound p → linkOf (s.nodeAt p) e ≠ Config.nil →
      linkOf (s.nodeAt p) e ≠ codeOfCounter s.nextCode :=
    fun hp he => h.bound_ne ((h.trie.nodes _ hp).link_bound he)
  rcases h.link_cases hm d with ⟨rfl, rfl, hl⟩ | hl <;>
    rcases h.link_cases hm' d' with ⟨rfl, rfl, hl'⟩ | hl' <;> rw [hl] at heq hnil
  · exact ⟨rfl, rfl⟩
  · rw [hl'] at heq
    exact absurd heq.symm (hold hm' (heq ▸ hnil))
  · exact absurd (heq.trans hl') (hold hm hnil)
  · exact h.trie.once m m' d d' hm hm' hnil (heq.trans hl')

/-! ## Child trees -/

theorem inTree_of_new {q : Code} (ht : (s.trieInsert b).InTree (codeOfCounter s.nextCode) q) :
    q = codeOfCounter s.nextCode := by
  generalize hx : codeOfCounter s.nextCode = x at ht
  induction ht using State.InTree.link_induction with
  | here => rfl
  | child x d _ _ ht => exact absurd (hx ▸ h.link_new d) ht.ne_nil

/-- The old nodes of an old tree stay in it. -/
theorem inTree_kept {p q : Code} (ht : s.InTree p q) (hp : s.bound p) :
    (s.trieInsert b).InTree p q := by
  induction ht using State.InTree.link_induction with
  | here hq => exact .here q hq
  | child p d hnil hd ht ih =>
    refine .child hnil hd ?_
    rw [h.link_kept hp ht.ne_nil]
    exact ih ((h.trie.nodes p hp).link_bound ht.ne_nil)

/-- An old tree gains no other node than the new one. -/
theorem inTree_old {p q : Code} (ht : (s.trieInsert b).InTree p q) (hp : s.bound p)
    (hq : q ≠ codeOfCounter s.nextCode) : s.InTree p q := by
  induction ht using State.InTree.link_induction with
  | here hnil => exact .here q hnil
  | child p d hnil hd ht ih =>
    rcases h.link_cases hp d with ⟨-, -, hl⟩ | hl <;> rw [hl] at ht ih
    · exact absurd (h.inTree_of_new ht) hq
    · exact .child hnil hd (ih ((h.trie.nodes p hp).link_bound ht.ne_nil))

/-- The trees the new node is in are those the recorded miss hangs from. -/
theorem below_of_inTree_new {x : Code}
    (ht : (s.trieInsert b).InTree x (codeOfCounter s.nextCode)) {p : Code} {d : Dir}
    (hx : linkOf ((s.trieInsert b).nodeAt p) d = x) (hp : s.bound p) :
    s.Below p d s.missNode s.missDir := by
  induction ht using State.InTree.link_induction generalizing p d with
  | here hnil =>
    rcases h.link_cases hp d with ⟨rfl, rfl, -⟩ | hl
    · exact .here
    · rw [hl] at hx
      exact absurd hx (h.bound_ne ((h.trie.nodes p hp).link_bound (hx ▸ hnil)))
  | child x e hnil he ht ih =>
    rcases h.link_cases hp d with ⟨rfl, rfl, -⟩ | hl
    · exact .here
    · rw [hl] at hx
      exact (ih rfl (hx ▸ (h.trie.nodes p hp).link_bound (hx ▸ hnil))).of_link hx hnil he

theorem below_kept {p m : Code} {d e : Dir} (hb : s.Below p d m e) (hp : s.bound p) :
    (s.trieInsert b).Below p d m e := by
  induction hb with
  | here => exact .here
  | step hb hq hnil he ih =>
    exact .step ih ((h.link_kept (hb.bound h.trie.nodes hp) (hq ▸ hnil)).trans hq) hnil he

/-- The byte of the new node belongs where its search fell off (R114, R117). -/
theorem ordered : (s.trieInsert b).TrieOrdered := by
  rw [trieOrdered_iff]
  intro p q d hp hd ht
  rcases (h.bound_iff p).1 hp with rfl | hp
  · exact absurd (h.link_new d) ht.ne_nil
  rw [sideOf, h.c_old hp, ← sideOf]
  by_cases hq : q = codeOfCounter s.nextCode
  · subst hq
    obtain ⟨-, hside⟩ := h.search
    rw [h.nodeAt_new]
    exact hside p d hp hd (h.below_of_inTree_new ht rfl hp)
  · rcases h.link_cases hp d with ⟨-, -, hl⟩ | hl <;> rw [hl] at ht
    · exact absurd (h.inTree_of_new ht) hq
    · have hlink := (h.trie.nodes p hp).link_bound ht.ne_nil
      have ht := h.inTree_old ht hlink hq
      rw [h.c_old (ht.bound h.trie.nodes hlink)]
      exact trieOrdered_iff.1 h.trie.ordered p q d hp hd ht

/-! ## Sequences -/

theorem keyOf_old {k : Code} (hk : s.bound k) : (s.trieInsert b).keyOf k = s.keyOf k := by
  rw [State.keyOf, trieInsert_assigns, tableLookup_append_ne (h.bound_ne hk), State.keyOf]

theorem keyOf_new : (s.trieInsert b).keyOf (codeOfCounter s.nextCode) =
    s.inbufSlice s.i (s.bestLen.toNat + 1) := by
  have hlow : 257 ≤ (codeOfCounter s.nextCode).toNat := by
    rw [codeOfCounter_toNat h.room]
    exact h.trie.seeded
  rw [State.keyOf, trieInsert_assigns, tableLookup_append_self hlow h.free]
  rfl

/-- The recorded miss hangs from the matched sequence, which the new node extends by its byte. -/
theorem keyBefore_miss : s.keyBefore s.missNode s.missDir = s.inbufSlice s.i s.bestLen.toNat := by
  obtain ⟨hbelow, -⟩ := h.search
  rw [hbelow.keyBefore_eq h.trie.nodes h.trie.keys h.matched.best_bound]
  exact keyOf_of_trieLookup h.trie.nodes h.trie.keys h.trie.seeded h.best

theorem keysLinked : (s.trieInsert b).KeysLinked := by
  intro m d hm hnil
  rcases (h.bound_iff m).1 hm with rfl | hm
  · exact absurd (h.link_new d) hnil
  rw [State.keyBefore, h.keyOf_old hm, ← State.keyBefore]
  rcases h.link_cases hm d with ⟨rfl, rfl, hl⟩ | hl <;> rw [hl] at hnil ⊢
  · rw [h.keyOf_new, h.slice, h.keyBefore_miss, h.nodeAt_new]
    rfl
  · have hlink := (h.trie.nodes m hm).link_bound hnil
    rw [h.keyOf_old hlink, h.c_old hlink]
    exact h.trie.keys m d hm hnil

/-! ## Lookups -/

/-- The children found before are found, and the new node is the only other one. -/
theorem childOf_old {p r : Code} (hp : s.bound p) (hr : r ≠ codeOfCounter s.nextCode) (a : Byte) :
    (s.trieInsert b).childOf a Config.arenaSize ((s.trieInsert b).nodeAt p).eq = some r ↔
      s.childOf a Config.arenaSize (s.nodeAt p).eq = some r := by
  constructor
  · intro hfound
    obtain ⟨ht, hc⟩ := inTree_of_childOf hfound
    rcases h.link_cases hp .eq with ⟨-, -, hl⟩ | hl <;> simp only [linkOf] at hl <;> rw [hl] at ht
    · exact absurd (h.inTree_of_new ht) hr
    · have hlink : s.bound (s.nodeAt p).eq :=
        (h.trie.nodes p hp).link_bound (d := .eq) ht.ne_nil
      have ht := h.inTree_old ht hlink hr
      rw [← hc, h.c_old (ht.bound h.trie.nodes hlink)]
      exact ht.childOf h.trie.nodes h.trie.ordered hlink
  · intro hfound
    obtain ⟨ht, hc⟩ := inTree_of_childOf hfound
    have hlink : s.bound (s.nodeAt p).eq := (h.trie.nodes p hp).link_bound (d := .eq) ht.ne_nil
    have hl : ((s.trieInsert b).nodeAt p).eq = (s.nodeAt p).eq :=
      h.link_kept (d := .eq) hp ht.ne_nil
    rw [hl, ← hc, ← h.c_old (ht.bound h.trie.nodes hlink)]
    exact (h.inTree_kept ht hlink).childOf h.nodes h.ordered ((h.bound_iff _).2 (.inr hlink))

/-- No way to an old node leads through the new one, which has no links. -/
theorem descend_old {p q : Code} (hp : s.bound p) (hq : q ≠ codeOfCounter s.nextCode) (x : Seq) :
    (s.trieInsert b).descend p x = some q ↔ s.descend p x = some q := by
  induction x generalizing p with
  | nil => rfl
  | cons a x ih =>
    simp only [descend_cons, Option.bind_eq_some_iff]
    refine exists_congr fun r => ?_
    by_cases hr : r = codeOfCounter s.nextCode
    · subst hr
      have hleft : (s.trieInsert b).descend (codeOfCounter s.nextCode) x ≠ some q := by
        cases x with
        | nil => exact fun hself => hq (Option.some.inj hself).symm
        | cons a x =>
          have hleaf := h.link_new .eq
          simp only [linkOf] at hleaf
          rw [descend_cons, hleaf, childOf_nil]
          exact nofun
      have hright :
          s.childOf a Config.arenaSize (s.nodeAt p).eq ≠ some (codeOfCounter s.nextCode) :=
        fun hfound => h.bound_ne (bound_of_childOf_eq h.trie.nodes hp hfound) rfl
      exact iff_of_false (fun hl => hleft hl.2) (fun hl => hright hl.1)
    · rw [h.childOf_old hp hr a]
      exact and_congr_right fun hfound => ih (bound_of_childOf_eq h.trie.nodes hp hfound)

theorem seeded : 257 ≤ (s.trieInsert b).nextCode.toNat := by
  rw [trieInsert_nextCode, counter_succ h.room]
  exact Nat.le_succ_of_le h.trie.seeded

theorem trieLookup_old {q : Code} (hq : q ≠ codeOfCounter s.nextCode) (x : Seq) :
    (s.trieInsert b).trieLookup x = some q ↔ s.trieLookup x = some q := by
  cases x with
  | nil => rfl
  | cons a x =>
    rw [trieLookup_cons h.nodes h.seeded, trieLookup_cons h.trie.nodes h.trie.seeded]
    exact h.descend_old (bound_byteCode h.trie.seeded a) hq x

/-- The new key is looked up by way of the match and the recorded miss. -/
theorem trieLookup_new : (s.trieInsert b).trieLookup (s.inbufSlice s.i (s.bestLen.toNat + 1)) =
    some (codeOfCounter s.nextCode) := by
  have hbound := h.matched.best_bound
  have hbest := (h.trieLookup_old (h.bound_ne hbound) _).2 h.best
  obtain ⟨hbelow, -⟩ := h.search
  have hnew : (s.trieInsert b).InTree (linkOf ((s.trieInsert b).nodeAt s.missNode) s.missDir)
      (codeOfCounter s.nextCode) := by
    rw [h.link_miss]
    exact .here _ ((h.bound_iff _).2 (.inl rfl)).ne_nil
  have ht : (s.trieInsert b).InTree ((s.trieInsert b).nodeAt s.bestCode).eq
      (codeOfCounter s.nextCode) := (h.below_kept hbelow hbound).inTree hnew
  have hroot : (s.trieInsert b).bound ((s.trieInsert b).nodeAt s.bestCode).eq :=
    (h.nodes _ ((h.bound_iff _).2 (.inr hbound))).link_bound (d := .eq) ht.ne_nil
  have hfound := ht.childOf h.nodes h.ordered hroot
  rw [h.nodeAt_new] at hfound
  rw [h.slice, trieLookup_concat h.nodes h.seeded hbest]
  exact hfound

/-- The sequence inserted is no key yet (R109). -/
theorem trieLookup_miss : s.trieLookup (s.inbufSlice s.i (s.bestLen.toNat + 1)) = none := by
  rw [h.slice, trieLookup_concat h.trie.nodes h.trie.seeded h.best,
    h.search.childOf_eq h.trie.nodes h.matched.best_bound, h.miss_nil, childOf_nil]

/-- The trie gains the key the dictionary gains (R108, R119). -/
theorem lookup (x : Seq) :
    (s.trieInsert b).trieLookup x = dictLookup (s.trieInsert b).assigns x := by
  rw [trieInsert_assigns]
  by_cases hx : x = s.inbufSlice s.i (s.bestLen.toNat + 1)
  · obtain ⟨hlen, -⟩ := inbufSlice_len_of_match h.matched h.trie.seeded
    have hnone : dictLookup s.assigns (s.inbufSlice s.i (s.bestLen.toNat + 1)) = none := by
      rw [← h.trie.lookup, h.trieLookup_miss]
    rw [hx, h.trieLookup_new, dictLookup_append_self hlen hnone]
  · rw [dictLookup_append_ne hx, ← h.trie.lookup]
    refine Option.ext fun q => ?_
    by_cases hq : q = codeOfCounter s.nextCode
    · subst hq
      have hleft : (s.trieInsert b).trieLookup x ≠ some (codeOfCounter s.nextCode) := fun hl =>
        hx ((keyOf_of_trieLookup h.nodes h.keysLinked h.seeded hl).symm.trans h.keyOf_new)
      have hright : s.trieLookup x ≠ some (codeOfCounter s.nextCode) := fun hr =>
        h.bound_ne (bound_of_trieLookup h.trie.nodes h.trie.seeded hr) rfl
      exact iff_of_false hleft hright
    · exact h.trieLookup_old hq x

theorem trieOk : (s.trieInsert b).TrieOk where
  seeded := h.seeded
  nodes := h.nodes
  once := h.linkedOnce
  keys := h.keysLinked
  ordered := h.ordered
  lookup := h.lookup

end State.InsertReady

end Sys2Proof.Machine
end

section
/-! The trie along a compress run (40_prefix_dictionary R114 to R119): the walk follows the search for the
longest match, C_GROW inserts at its miss, and no other phase touches the trie. -/

namespace Sys2Proof.Machine

/-! ## The input -/

theorem afterMatch_eq (s : State) : s.afterMatch = s.i + BitVec.ofNat 32 s.bestLen.toNat := by
  rw [State.afterMatch, BitVec.ofNat_toNat]

theorem inbufSlice_succ (s : State) (a : Word) (l : Nat) :
    s.inbufSlice a (l + 1) = s.inbufSlice a l ++ [s.inbufByte (a + BitVec.ofNat 32 l)] := by
  simp [State.inbufSlice, List.range_succ]

/-- The match and the byte after it. -/
theorem inbufSlice_match_succ (s : State) : s.inbufSlice s.i (s.bestLen.toNat + 1) =
    s.inbufSlice s.i s.bestLen.toNat ++ [s.inbufByte s.afterMatch] := by
  rw [inbufSlice_succ, afterMatch_eq]

@[simp] theorem length_inbufSlice (s : State) (a : Word) (l : Nat) :
    (s.inbufSlice a l).length = l := by
  simp [State.inbufSlice]

theorem take_inbufSlice (s : State) (a : Word) {l m : Nat} (h : l ≤ m) :
    (s.inbufSlice a m).take l = s.inbufSlice a l := by
  rw [State.inbufSlice, State.inbufSlice, ← List.map_take, List.take_range, Nat.min_eq_left h]

/-- The rest of the input from an offset on, up to a length (R12, R61). -/
theorem take_drop_input {s : State} {l : Nat} (h : s.i.toNat + l ≤ s.n.toNat) :
    (s.input.drop s.i.toNat).take l = s.inbufSlice s.i l := by
  refine List.ext_getElem (by simp [State.input]; omega) fun d _ _ => ?_
  simp [State.input, State.inbufSlice, BitVec.ofNat_add]

/-! ## The walk -/

/-- What the walk has found (R115): the match so far is the sequence of BEST_CODE, and the search for the
byte after it has fallen to the recorded miss. -/
structure State.WalkOk (s : State) : Prop where
  best : s.trieLookup (s.inbufSlice s.i s.bestLen.toNat) = some s.bestCode
  search : s.Search (s.inbufByte s.afterMatch) s.bestCode s.missNode s.missDir

theorem State.Search.congr {s t : State} (hn : t.node = s.node) (he : t.epoch = s.epoch)
    (hc : t.nextCode = s.nextCode) {b : Byte} {n m : Code} {e : Dir} (h : s.Search b n m e) :
    t.Search b n m e := by
  have hat : ∀ p, t.nodeAt p = s.nodeAt p := nodeAt_congr hn he
  obtain ⟨hbelow, hside⟩ := h
  refine ⟨hbelow.congr hat, fun p d hp hd hb => ?_⟩
  rw [bound_iff, hc, ← bound_iff] at hp
  rw [hat]
  exact hside p d hp hd (hb.congr fun q => (hat q).symm)

/-- The findings of `t`, read off a state with the same trie and input. -/
theorem walkOk_of_reads {s t : State} (hn : t.node = s.node) (he : t.epoch = s.epoch)
    (hc : t.nextCode = s.nextCode) (hbuf : t.inbuf = s.inbuf) (hi : t.i = s.i)
    (best : s.trieLookup (s.inbufSlice s.i t.bestLen.toNat) = some t.bestCode)
    (search : s.Search (s.inbufByte (s.i + t.bestLen.setWidth 32)) t.bestCode t.missNode t.missDir) :
    t.WalkOk := by
  have hbyte : ∀ a, t.inbufByte a = s.inbufByte a := inbufByte_congr hbuf he
  constructor
  case best =>
    rw [trieLookup_congr (nodeAt_congr hn he), ← best, hi]
    simp only [State.inbufSlice, hbyte]
  case search =>
    rw [State.afterMatch, hi, hbyte]
    exact search.congr hn he hc

/-- The walk's findings do not speak of the phase, the sink and CODE_COUNT. -/
theorem State.WalkOk.passive {s : State} (h : s.WalkOk) (p : Phase) (es : List Event)
    (count : Word) : State.WalkOk { s with phase := p, sink := es, codeCount := count } :=
  walkOk_of_reads (s := s) rfl rfl rfl rfl rfl h.best h.search

/-- The start step matches one byte, and searches the children of its root node (R115). -/
theorem walkOk_walkStart {s : State} (h : s.TrieOk) :
    State.WalkOk { s.walkStart (s.inbufByte s.i) with phase := .cWalk } := by
  have hroot := bound_byteCode h.seeded (s.inbufByte s.i)
  have hslice : s.inbufSlice s.i 1 = [s.inbufByte s.i] := by simp [State.inbufSlice]
  have hsearch := search_start s (s.inbufByte (s.i + (1 : Len).setWidth 32))
    (byteCode (s.inbufByte s.i))
  refine walkOk_of_reads (s := s) rfl rfl rfl rfl rfl (congrArg s.trieLookup hslice) ?_
  simp only [walkStart_bestCode, (h.nodes _ hroot).code]
  exact hsearch

/-- A visit of a node whose byte differs moves the miss to that node, on the byte's side (R115). -/
theorem walkVisit_of_side_ne {s : State} {b : Byte} (hb : sideOf (s.nodeAt s.p) b ≠ .eq) :
    s.walkVisit b = { s with
      missNode := s.p
      missDir := sideOf (s.nodeAt s.p) b
      p := linkOf (s.nodeAt s.p) (sideOf (s.nodeAt s.p) b) } := by
  unfold sideOf at hb ⊢
  by_cases h1 : b < (s.nodeAt s.p).c
  · simp [State.walkVisit, h1, linkOf]
  · by_cases h2 : (s.nodeAt s.p).c < b
    · simp [State.walkVisit, h1, h2, linkOf]
    · simp [h1, h2] at hb

/-- The walk's visit is one step of the search: it moves the miss on, or finds the byte and starts over
among the children of the node found (R115). -/
theorem walkOk_walkVisit {s : State} (h : s.TrieOk) (hw : s.WalkOk) (hm : MatchInv s)
    (hj : s.j = s.afterMatch) (hlen : s.j.toNat = s.i.toNat + s.bestLen.toNat)
    (hp : s.p = linkOf (s.nodeAt s.missNode) s.missDir) (hnil : s.p ≠ Config.nil) :
    State.WalkOk { s.walkVisit (s.inbufByte s.j) with phase := .cWalk } := by
  have hbound : s.bound s.p := hp ▸ (h.nodes _ hm.miss_bound).link_bound (hp ▸ hnil)
  by_cases hside : sideOf (s.nodeAt s.p) (s.inbufByte s.j) = .eq
  · have hcode : (s.nodeAt s.p).code = s.p := (h.nodes _ hbound).code
    have hnew : s.trieLookup (s.inbufSlice s.i (s.bestLen.toNat + 1)) = some s.p := by
      rw [inbufSlice_match_succ, trieLookup_concat h.nodes h.seeded hw.best,
        hw.search.childOf_eq h.nodes hm.best_bound, ← hp, ← hj, childOf_visit h.nodes _ hbound,
        if_pos hside]
    have hl : (BitVec.ofNat 12 (s.j.toNat - s.i.toNat + 1)).toNat = s.bestLen.toNat + 1 := by
      have h1 := hm.best_len
      have h2 := lenBound_le s.bestCode
      rw [hlen, Nat.add_sub_cancel_left, BitVec.toNat_ofNat]
      omega
    rw [walkVisit_of_eq (sideOf_eq_eq_iff.1 hside)]
    refine walkOk_of_reads (s := s) rfl rfl rfl rfl rfl ?_ ?_ <;> simp only [hcode]
    · rw [hl]; exact hnew
    · exact search_start s _ s.p
  · rw [walkVisit_of_side_ne hside]
    refine walkOk_of_reads (s := s) rfl rfl rfl rfl rfl hw.best ?_
    rw [hj] at hside ⊢
    exact hw.search.visit h.nodes h.once hm.miss_bound hp.symm hnil hside

/-! ## The run -/

/-- What a compress run keeps past C_SEED, and its end in DONE: the trie represents the dictionary, and
from the walk to the growth its registers hold what the walk has found. -/
structure State.CompressRun (s : State) : Prop where
  inv : Inv s
  phase : s.phase = .cMatch ∨ s.phase = .cWalk ∨ s.phase = .cEmit ∨ s.phase = .cGrow ∨
    s.phase = .cAdv ∨ s.phase = .cEos ∨ s.phase = .cClose ∨ s.phase = .done
  trie : s.TrieOk
  walk : s.phase = .cWalk ∨ s.phase = .cEmit ∨ s.phase = .cGrow → s.WalkOk
  /-- the walk stops with J after the match and P at the recorded miss (R116) -/
  stopped : s.phase = .cEmit → s.j.toNat = s.i.toNat + s.bestLen.toNat ∧
    s.p = linkOf (s.nodeAt s.missNode) s.missDir

/-- With nothing learned D is D0 (R101). -/
theorem dictLookup_nil (x : Seq) : dictLookup [] x =
    match x with
    | [b] => some (byteCode b)
    | _ => none := by
  match x with
  | [] => rfl
  | [_] => rfl
  | _ :: _ :: _ => rfl

/-- A trie of the roots only represents D0 (R101, R113). -/
theorem trieOk_of_roots {s : State} (hc : s.nextCode.toNat = 257) (ha : s.assigns = [])
    (hnodes : ∀ k, s.bound k → s.nodeOk k)
    (hroots : ∀ k, s.bound k → s.nodeAt k = rootNode k.toNat) : s.TrieOk := by
  have hlow : 257 ≤ s.nextCode.toNat := Nat.le_of_eq hc.symm
  have hlink : ∀ k d, s.bound k → linkOf (s.nodeAt k) d = Config.nil := fun k d hk => by
    rw [hroots k hk]
    cases d <;> rfl
  constructor
  case seeded => exact hlow
  case nodes => exact hnodes
  case once => exact fun m _ d _ hm _ hnil _ => absurd (hlink m d hm) hnil
  case keys => exact fun m d hm hnil => absurd (hlink m d hm) hnil
  case ordered =>
    exact trieOrdered_iff.2 fun p _ d hp _ ht => absurd (hlink p d hp) ht.ne_nil
  case lookup =>
    intro x
    rw [ha, dictLookup_nil]
    match x with
    | [] => rfl
    | [b] => exact trieLookup_cons hnodes hlow b []
    | b :: c :: x =>
      have hroot : (s.nodeAt (byteCode b)).eq = Config.nil := hlink _ .eq (bound_byteCode hlow b)
      rw [trieLookup_cons hnodes hlow, descend_cons, hroot, childOf_nil]
      rfl

/-- Before C_SEED nothing is bound (R286). -/
theorem assigns_of_cSeed {s : State} (h : RegInv s) (hp : s.phase = .cSeed) : s.assigns = [] := by
  obtain ⟨hn, -⟩ := h.seed_entry (.inl hp)
  have hcodes := h.assigns_codes
  rw [hn] at hcodes
  exact List.map_eq_nil_iff.1 hcodes

theorem engineStep_cSeed {s : State} (hp : s.phase = .cSeed) : engineStep s =
    .next { s.trieSeed with
      i := 0, nextCode := Config.firstFree, codeCount := 0, byteCount := 0, phase := .cMatch } := by
  rw [engineStep, hp]
  rfl

/-- C_SEED starts the run with the trie of the roots. -/
theorem compressRun_seeded {s : State} (h : Inv s) (hp : s.phase = .cSeed) :
    State.CompressRun { s.trieSeed with
      i := 0, nextCode := Config.firstFree, codeCount := 0, byteCount := 0, phase := .cMatch } where
  inv := (EngineMove.cSeed hp).inv h
  phase := .inl rfl
  trie := by
    have hlt : ∀ k : Code, k ≠ Config.eos ∧ k.toNat < Config.firstFree.toNat → k.toNat < 256 :=
      fun k ⟨hne, hlt⟩ => by
        rw [ne_eos_iff] at hne
        rw [firstFree_toNat] at hlt
        omega
    exact trieOk_of_roots rfl (assigns_of_cSeed (s := s) h.reg hp)
      (fun k hk => nodeOk_trieSeed (s := s) (by rfl) (by rfl) (hlt k hk))
      (fun k hk => (nodeAt_trieSeed s k).trans (if_pos (hlt k hk)))
  walk := by simp
  stopped := by simp

/-- The code a growth phase binds stands for nothing yet (R43). -/
theorem tableLookup_nextCode {s : State} (h : RegInv s) (hlow : 257 ≤ s.nextCode.toNat)
    (hc : s.nextCode.toNat < 4096) :
    tableLookup s.assigns (codeOfCounter s.nextCode) = none := by
  have hclass : classOf (codeOfCounter s.nextCode) = .dict := by
    rw [classOf, codeOfCounter_toNat hc, if_neg (by omega), if_neg (by omega)]
  rw [tableLookup, hclass]
  refine Option.map_eq_none_iff.2 (List.find?_eq_none.2 fun x hx heq => ?_)
  have hmem := List.mem_map_of_mem (f := fun x : Binding => x.1.toNat) hx
  rw [h.assigns_codes, List.mem_range'_1, eq_of_beq heq, codeOfCounter_toNat hc] at hmem
  omega

/-- Growth finds what TRIE_INSERT rests on. -/
theorem State.CompressRun.insertReady {s : State} (h : s.CompressRun) (hp : s.phase = .cGrow)
    (hn : s.i.toNat + s.bestLen.toNat < s.n.toNat) (hc : s.nextCode.toNat < 4096) :
    s.InsertReady (s.inbufByte s.afterMatch) where
  trie := h.trie
  matched := h.inv.compress.matched (by simp [hp])
  best := (h.walk (by simp [hp])).best
  search := (h.walk (by simp [hp])).search
  miss_nil := h.inv.compress.missed (.inr hp) hn
  slice := inbufSlice_match_succ s
  room := hc
  free := tableLookup_nextCode h.inv.reg h.trie.seeded hc

/-- During the walk J is the offset after the match. -/
theorem j_eq_afterMatch {s : State} (hm : MatchInv s)
    (hj : s.j.toNat = s.i.toNat + s.bestLen.toNat) : s.j = s.afterMatch :=
  BitVec.eq_of_toNat_eq (hj.trans (afterMatch_toNat hm).symm)

/-- Every phase of the run keeps the trie, and the walk's findings where they are used. -/
theorem State.CompressRun.move {s t : State} (h : s.CompressRun) (hm : EngineMove s t) :
    t.CompressRun := by
  have hinv := hm.inv h.inv
  cases hm with
  | rest => exact h
  | matchEnd | cNoGrow | cAdv | cEos | cClose =>
    exact ⟨hinv, by simp, h.trie.congr rfl rfl rfl rfl, by simp, by simp⟩
  | matchStart =>
    exact ⟨hinv, by simp, h.trie.congr rfl rfl rfl rfl, fun _ => walkOk_walkStart h.trie, by simp⟩
  | walkEnd hp =>
    exact ⟨hinv, by simp, h.trie.congr rfl rfl rfl rfl,
      fun _ => (h.walk (.inl hp)).passive _ _ _, fun _ => h.inv.compress.walking hp⟩
  | walkVisit hp _ hnil =>
    obtain ⟨hj, hlink⟩ := h.inv.compress.walking hp
    have hmatch := h.inv.compress.matched (.inl hp)
    exact ⟨hinv, by simp, h.trie.congr (by simp) (by simp) (by simp) (by simp),
      fun _ => walkOk_walkVisit h.trie (h.walk (.inl hp)) hmatch (j_eq_afterMatch hmatch hj) hj
        hlink hnil, by simp⟩
  | cEmit hp =>
    exact ⟨hinv, by simp, h.trie.congr rfl rfl rfl rfl,
      fun _ => (h.walk (.inr (.inl hp))).passive _ _ _, by simp⟩
  | cGrow hp hn hc =>
    exact ⟨hinv, by simp, (h.insertReady hp hn hc).trieOk.congr rfl rfl rfl rfl, by simp, by simp⟩
  | cSeed hp | xSeed hp | firstEos hp | firstLit hp | firstBad hp | xEmit hp | pushEnd hp
  | push hp | popEnd hp | pop hp | readEos hp | read hp | resolveEos hp | hit hp | selfref hp
  | resolveBad hp | xGrow hp | xNoGrow hp | xAdv hp | xClose hp =>
    exact absurd h.phase (by simp [hp])
  | truncated hp => rcases hp with hp | hp <;> exact absurd h.phase (by simp [hp])

/-- A run of the engine keeps what each of its steps keeps. -/
theorem engineRun_keeps {P : State → Prop} (hstep : ∀ s t, P s → engineStep s = .next t → P t)
    {m : Nat} {s t : State} (hs : P s) (ht : engineRun m s = .next t) : P t := by
  induction m generalizing s with
  | zero => cases ht; exact hs
  | succ m ih =>
    rw [engineRun] at ht
    split at ht
    · next u hu => exact ih (hstep s u hs hu) ht
    · cases ht
    · cases ht

/-- From C_SEED on, every state of a compress run has its trie in order. -/
theorem compressRun_of_engineRun {s t : State} {m : Nat} (h : Inv s) (hp : s.phase = .cSeed)
    (hm : 0 < m) (ht : engineRun m s = .next t) : t.CompressRun := by
  obtain ⟨m, rfl⟩ := Nat.exists_eq_succ_of_ne_zero hm.ne'
  rw [engineRun, engineStep_cSeed hp] at ht
  exact engineRun_keeps (fun _ _ hs hst => hs.move (engineStep_moves hst))
    (compressRun_seeded h hp) ht

/-- Settles O44: the trie of a run is in order, and D is its learned bindings once the run is seeded. -/
theorem trieRefinesDictionary : Obligations.TrieRefinesDictionary := by
  intro s t m h hp hm ht
  obtain ⟨-, -, htrie, -, -⟩ := compressRun_of_engineRun h hp hm ht
  exact ⟨fun x => by rw [htrie.dict_eq, htrie.lookup], htrie.ordered⟩

/-! ## The longest match -/

/-- A key is the longest one where no longer beginning of the sequence is a key (R105). -/
theorem longestLen_eq {learned : List Binding} {x : Seq} {l : Nat} (hl : 0 < l)
    (hx : l ≤ x.length) (hkey : (dictLookup learned (x.take l)).isSome)
    (hmax : ∀ m, l < m → m ≤ x.length → dictLookup learned (x.take m) = none) :
    longestLen learned x = l := by
  have hle : longestLen learned x ≤ x.length := longestUpTo_le learned x x.length
  rcases Nat.lt_trichotomy (longestLen learned x) l with hlt | heq | hgt
  · rw [longestUpTo_max hlt hx] at hkey
    cases hkey
  · exact heq
  · have hsome : (dictLookup learned (x.take (longestLen learned x))).isSome :=
      longestUpTo_isSome (Nat.lt_trans hl hgt)
    rw [hmax _ hgt hle] at hsome
    cases hsome

/-- No key is longer than the match, where the walk fell off (R103, R116). -/
theorem State.CompressRun.trieLookup_longer {s : State} (h : s.CompressRun) (hp : s.phase = .cEmit)
    {m : Nat} (hlt : s.bestLen.toNat < m) (hm : s.i.toNat + m ≤ s.n.toNat) :
    s.trieLookup (s.inbufSlice s.i m) = none := by
  have hw := h.walk (.inr (.inl hp))
  have hnil := h.inv.compress.missed (.inl hp) (by omega)
  have hbest := (h.inv.compress.matched (.inr (.inl hp))).best_bound
  have hmiss : s.trieLookup (s.inbufSlice s.i (s.bestLen.toNat + 1)) = none := by
    rw [inbufSlice_match_succ, trieLookup_concat h.trie.nodes h.trie.seeded hw.best,
      hw.search.childOf_eq h.trie.nodes hbest, hnil, childOf_nil]
  rw [← List.take_append_drop (s.bestLen.toNat + 1) (s.inbufSlice s.i m), take_inbufSlice s _ hlt]
  exact trieLookup_append_none (List.ne_nil_of_length_eq_add_one (length_inbufSlice ..)) hmiss _

/-- At C_EMIT the match is the longest key the rest of the input begins with (R105, R116). -/
theorem State.CompressRun.longestPrefix_eq {s : State} (h : s.CompressRun) (hp : s.phase = .cEmit) :
    longestPrefix s.assigns (s.input.drop s.i.toNat) = s.inbufSlice s.i s.bestLen.toNat := by
  have hw := h.walk (.inr (.inl hp))
  have hm := h.inv.compress.matched (.inr (.inl hp))
  have hfits := hm.fits
  have hrest : (s.input.drop s.i.toNat).length = s.n.toNat - s.i.toNat := by simp [State.input]
  have hlen : longestLen s.assigns (s.input.drop s.i.toNat) = s.bestLen.toNat := by
    refine longestLen_eq hm.len_pos (by omega) ?_ fun m hlt hle => ?_
    · rw [take_drop_input hfits, ← h.trie.lookup, hw.best]
      rfl
    · rw [take_drop_input (by omega), ← h.trie.lookup]
      exact h.trieLookup_longer hp hlt (by omega)
  rw [longestPrefix, hlen, take_drop_input hfits]

/-- Settles O45: at C_EMIT the match the walk has found is the longest there is, and J and P stand where
the walk stopped. -/
theorem walkFindsLongestPrefix : Obligations.WalkFindsLongestPrefix := by
  intro s t m h hp ht hemit
  have hm : 0 < m := by
    refine Nat.pos_of_ne_zero fun hm => ?_
    subst hm
    cases ht
    simp [hp] at hemit
  have hrun := compressRun_of_engineRun h hp hm ht
  rw [hrun.longestPrefix_eq hemit, length_inbufSlice, hrun.trie.dict_eq, ← hrun.trie.lookup]
  refine ⟨rfl, (hrun.walk (.inr (.inl hemit))).best, fun hlt => ?_⟩
  obtain ⟨hj, hlink⟩ := hrun.stopped hemit
  have hnil := hrun.inv.compress.missed (.inl hemit) hlt
  exact ⟨hj, hlink.trans hnil, hnil⟩

end Sys2Proof.Machine
end

section
/-! The phases C_SEED, C_MATCH and C_WALK (40_prefix_dictionary R113, R115; 42_compress R161, R162): the
equation of each of their steps. -/

namespace Sys2Proof.Machine

/-! ## C_SEED -/

/-- The root node of a code's byte, field by field (R113). -/
theorem rootNode_toNat (p : Code) : rootNode p.toNat =
    { c := p.setWidth 8, lo := Config.nil, eq := Config.nil, hi := Config.nil, term := true
      code := p } := by
  rw [rootNode, BitVec.ofNat_toNat, BitVec.ofNat_toNat, BitVec.setWidth_eq]

/-- Settles O32: the nodes by the law of TRIE_SEED, and D by its value where nothing is learned. -/
theorem cSeedPhase : Obligations.CSeedPhase := by
  intro s hp
  refine ⟨_, engineStep_cSeed hp, rfl, fun p => ?nodes, fun ha x => ?dict⟩
  case nodes =>
    have hseed := nodeAt_trieSeed s p
    rw [rootNode_toNat] at hseed
    exact hseed
  case dict =>
    have hd0 := dictLookup_nil x
    rw [← ha] at hd0
    exact hd0

/-! ## C_MATCH and C_WALK -/

theorem engineStep_cMatch_end {s : State} (hp : s.phase = .cMatch) (hi : s.i = s.n) :
    engineStep s = .next { s with phase := .cEos } := by
  rw [engineStep, hp]
  exact if_pos hi

theorem engineStep_cMatch_start {s : State} (hp : s.phase = .cMatch) (hi : s.i ≠ s.n)
    (ha : s.i.toNat < s.nMax.toNat) :
    engineStep s = .next { s.walkStart (s.inbufByte s.i) with phase := .cWalk } := by
  rw [engineStep, hp]
  simp only [phaseCMatch, if_neg hi, engineByte_of_lt ha]

theorem engineStep_cWalk_end {s : State} (hp : s.phase = .cWalk)
    (hend : s.j = s.n ∨ s.p = Config.nil) : engineStep s = .next { s with phase := .cEmit } := by
  rw [engineStep, hp]
  exact if_pos hend

/-- A visit stays in C_WALK, so its phase is the state's own. -/
theorem engineStep_cWalk_visit {s : State} (hp : s.phase = .cWalk) (hj : s.j ≠ s.n)
    (hnil : s.p ≠ Config.nil) (ha : s.j.toNat < s.nMax.toNat) :
    engineStep s = .next (s.walkVisit (s.inbufByte s.j)) := by
  have hphase : ({ s.walkVisit (s.inbufByte s.j) with phase := .cWalk } : State) =
      s.walkVisit (s.inbufByte s.j) := by
    rw [← hp, ← walkVisit_phase s (s.inbufByte s.j)]
  rw [engineStep, hp]
  simp only [phaseCWalk, if_neg (not_or.2 ⟨hj, hnil⟩), engineByte_of_lt ha, hphase]

/-- Settles O33: the two outcomes of C_MATCH, the end of the walk, and a visit by the side of the byte. -/
theorem matchAndWalkPhases : Obligations.MatchAndWalkPhases := by
  refine ⟨fun _ hp hi => engineStep_cMatch_end hp hi, ?start,
    fun _ hp he => engineStep_cWalk_end hp he, ?visit⟩
  case start =>
    rintro s m hp hi ha rfl
    exact engineStep_cMatch_start hp hi ha
  case visit =>
    rintro s b m hp hj hnil ha rfl rfl
    rw [engineStep_cWalk_visit hp hj hnil ha]
    refine ⟨fun hlt => ?lo, fun hgt => ?hi, fun heq => ?eq⟩
    case lo =>
      have hside := sideOf_eq_lo_iff.2 hlt
      rw [walkVisit_of_side_ne (by rw [hside]; decide), hside]
      rfl
    case hi =>
      have hside := sideOf_eq_hi_iff.2 hgt
      rw [walkVisit_of_side_ne (by rw [hside]; decide), hside]
      rfl
    case eq => rw [walkVisit_of_eq heq]

end Sys2Proof.Machine
end

section
/-! The chained table represents T (41_code_table R141): the sequence of an entry by its link, and that
X_SEED, X_GROW and every other step keep the representation. -/

namespace Sys2Proof.Machine

/-! ## The sequence of an entry -/

/-- The bytes a chain pointer leads to: none at NIL, else the sequence of its entry (R139, R141). -/
def State.chainBytes (s : State) (p : Code) : Seq := if p = Config.nil then [] else s.seqOf p

@[simp] theorem chainBytes_nil (s : State) : s.chainBytes Config.nil = [] := if_pos rfl

theorem chainBytes_of_ne_nil (s : State) {p : Code} (h : p ≠ Config.nil) :
    s.chainBytes p = s.seqOf p := if_neg h

theorem chainSeq_succ (s : State) (fuel : Nat) (k : Code) :
    s.chainSeq (fuel + 1) k =
      if (s.tabAt k).pre = Config.nil then [(s.tabAt k).suffix]
      else s.chainSeq fuel (s.tabAt k).pre ++ [(s.tabAt k).suffix] := rfl

theorem State.entryOk.len_pos {s : State} {k : Code} (h : s.entryOk k) :
    1 ≤ (s.tabAt k).len.toNat := by
  rcases h.pre_cases with ⟨-, hlen⟩ | ⟨-, hlen⟩ <;> omega

/-- Fuel for as many links as the entry is long reads the whole chain (R142). -/
theorem chainSeq_fuel {s : State} (h : ∀ k, s.bound k → s.entryOk k) {k : Code} (hk : s.bound k)
    {f g : Nat} (hf : (s.tabAt k).len.toNat ≤ f) (hg : (s.tabAt k).len.toNat ≤ g) :
    s.chainSeq f k = s.chainSeq g k := by
  have hpos := (h k hk).len_pos
  induction f generalizing k g with
  | zero => omega
  | succ f ih =>
    obtain ⟨g, rfl⟩ := Nat.exists_eq_add_of_le' (Nat.le_trans hpos hg)
    rw [chainSeq_succ, chainSeq_succ]
    rcases (h k hk).pre_cases with ⟨hnil, -⟩ | ⟨hbound, hlen⟩
    · rw [if_pos hnil, if_pos hnil]
    · rw [ih hbound (g := g) (by omega) (by omega) (h _ hbound).len_pos]

/-- The sequence of a bound code is what its link leads to and the entry's own byte (R141). -/
theorem seqOf_eq {s : State} (h : ∀ k, s.bound k → s.entryOk k) {k : Code} (hk : s.bound k) :
    s.seqOf k = s.chainBytes (s.tabAt k).pre ++ [(s.tabAt k).suffix] := by
  rw [State.seqOf, Config.arenaSize, chainSeq_succ]
  rcases (h k hk).pre_cases with ⟨hnil, -⟩ | ⟨hbound, -⟩
  · rw [if_pos hnil, hnil, chainBytes_nil, List.nil_append]
  · have hmax := (h _ hbound).len_le.trans (lenBound_le _)
    rw [if_neg hbound.ne_nil, chainBytes_of_ne_nil s hbound.ne_nil,
      chainSeq_fuel h hbound (g := Config.arenaSize) (by omega) (Nat.le_trans hmax (by decide)),
      State.seqOf]

/-! ## Bytes -/

theorem tableLookup_of_lt (l : List Binding) {k : Code} (hk : k.toNat < 256) :
    tableLookup l k = some [litByte k] := by
  have hlit : classOf k = .lit := if_pos (Nat.le_of_lt_succ hk)
  rw [tableLookup, hlit]

/-- Once the run is seeded T is decided by the learned bindings (R42). -/
theorem table_eq_tableLookup {s : State} (hlow : 257 ≤ s.nextCode.toNat) (k : Code) :
    s.table k = tableLookup s.assigns k := by
  refine if_neg fun hzero => ?_
  rw [hzero] at hlow
  exact absurd hlow (by decide)

/-- A table of the bytes only represents T0 (R131, R137). -/
theorem tableSound_of_bytes {s : State} (hc : s.nextCode.toNat = 257)
    (h : ∀ k, s.bound k → s.entryOk k) : s.TableSound := by
  intro k hk
  have hlt : k.toNat < 256 := by
    obtain ⟨hne, hlt⟩ := (bound_iff s k).1 hk
    omega
  have hentry : s.tabAt k = seedEntry k.toNat := (h k hk).of_byte hlt
  have hbyte : BitVec.ofNat 8 k.toNat = litByte k := BitVec.ofNat_toNat 8 k
  rw [table_eq_tableLookup (Nat.le_of_eq hc.symm), tableLookup_of_lt _ hlt, seqOf_eq h hk, hentry,
    seedEntry, hbyte, chainBytes_nil]
  exact ⟨rfl, rfl, rfl⟩

/-! ## Growth -/

theorem chainSeq_tabAppend_bound {s : State} (h : ∀ k, s.bound k → s.entryOk k)
    (hc : s.nextCode.toNat < 4096) (fuel : Nat) {k : Code} (hk : s.bound k) :
    s.tabAppend.chainSeq fuel k = s.chainSeq fuel k := by
  induction fuel generalizing k with
  | zero => rfl
  | succ fuel ih =>
    rw [chainSeq_succ, chainSeq_succ, tabAt_tabAppend_bound hc hk]
    rcases (h k hk).pre_cases with ⟨hnil, -⟩ | ⟨hbound, -⟩
    · rw [if_pos hnil, if_pos hnil]
    · rw [ih hbound]

/-- A code bound before the growth keeps its sequence (R138). -/
theorem seqOf_tabAppend_bound {s : State} (h : ∀ k, s.bound k → s.entryOk k)
    (hc : s.nextCode.toNat < 4096) {k : Code} (hk : s.bound k) : s.tabAppend.seqOf k = s.seqOf k :=
  chainSeq_tabAppend_bound h hc _ hk

/-- The new code stands for `current` and the byte NFIRST (R133, R138). -/
theorem seqOf_tabAppend_new {s : State} (h : ∀ k, s.bound k → s.entryOk k) (hcur : s.bound s.cur)
    (hlow : 257 ≤ s.nextCode.toNat) (hc : s.nextCode.toNat < 4096) :
    s.tabAppend.seqOf (codeOfCounter s.nextCode) = s.seqOf s.cur ++ [s.nfirst] := by
  have hnew : s.tabAppend.bound (codeOfCounter s.nextCode) :=
    (bound_tabAppend_iff hlow hc _).2 (.inl rfl)
  rw [seqOf_eq (entryOk_tabAppend h hcur hlow hc) hnew, tabAt_tabAppend, if_pos rfl,
    chainBytes_of_ne_nil _ hcur.ne_nil, seqOf_tabAppend_bound h hc hcur]

/-- TAB_APPEND keeps the representation: the new entry takes its first byte from `current` and is one
longer, and no other code changes (R138, R141). -/
theorem tableSound_tabAppend {s : State} (hreg : RegInv s) (h : ∀ k, s.bound k → s.entryOk k)
    (hcur : s.bound s.cur) (hlow : 257 ≤ s.nextCode.toNat) (hc : s.nextCode.toNat < 4096)
    (hs : s.TableSound) : s.tabAppend.TableSound := by
  have hlow' : 257 ≤ s.tabAppend.nextCode.toNat := by
    rw [tabAppend_nextCode, counter_succ hc]
    omega
  intro k hk
  rw [table_eq_tableLookup hlow', tabAppend_assigns]
  rcases (bound_tabAppend_iff hlow hc k).1 hk with rfl | hks
  · obtain ⟨-, hfirst, hlen⟩ := hs _ hcur
    have hroom : ((s.tabAt s.cur).len + 1).toNat = (s.tabAt s.cur).len.toNat + 1 := by
      have hle := (h _ hcur).len_le.trans (lenBound_le _)
      exact BitVec.toNat_add_of_lt (by simp; omega)
    rw [seqOf_tabAppend_new h hcur hlow hc, tabAt_tabAppend, if_pos rfl]
    refine ⟨?table, ?first, ?len⟩
    case table =>
      exact tableLookup_append_self (by rwa [codeOfCounter_toNat hc])
        (tableLookup_nextCode hreg hlow hc)
    case first => rw [List.head?_append, hfirst, Option.some_or]
    case len => rw [List.length_append, hlen, hroom, List.length_singleton]
  · rw [tableLookup_append_ne (bound_codeOfCounter_ne hc hks), ← table_eq_tableLookup hlow,
      seqOf_tabAppend_bound h hc hks, tabAt_tabAppend_bound hc hks]
    exact hs k hks

/-! ## Every step -/

theorem seqOf_congr {s t : State} (h : ∀ k, t.tabAt k = s.tabAt k) (k : Code) :
    t.seqOf k = s.seqOf k := by
  rw [State.seqOf, chainSeq_congr h, State.seqOf]

theorem chainBytes_congr {s t : State} (h : ∀ k, t.tabAt k = s.tabAt k) (p : Code) :
    t.chainBytes p = s.chainBytes p := by
  rw [State.chainBytes, State.chainBytes, seqOf_congr h]

/-- Nothing but the table, NEXT_CODE and the bindings decides the representation. -/
theorem State.TableSound.congr {s t : State} (h : s.TableSound) (hn : t.tab = s.tab)
    (he : t.epoch = s.epoch) (hc : t.nextCode = s.nextCode) (ha : t.assigns = s.assigns) :
    t.TableSound := by
  have hat : ∀ k, t.tabAt k = s.tabAt k := tabAt_congr hn he
  intro k hk
  have hks : s.bound k := ⟨hk.1, hc ▸ hk.2⟩
  rw [table_congr ha hc, seqOf_congr hat, hat]
  exact h k hks

/-- The representation is asked of expand runs only (R42). -/
theorem tableInv_of_mode_ne {s : State} (h : s.phase.mode ≠ .expanding) : TableInv s :=
  fun hm => absurd hm h

/-- A move of the engine keeps the representation: X_SEED sets it up, X_GROW extends it, and the other
moves leave the table as it is. -/
theorem EngineMove.tableInv {s t : State} (hm : EngineMove s t) (h : Inv s) (hs : TableInv s) :
    TableInv t := by
  cases hm with
  | rest => exact hs
  | xSeed => exact fun hm hp => tableSound_of_bytes rfl ((expandInv_seeded s).entries hm hp)
  | xGrow hp hc =>
    obtain ⟨he, hlow, hcur⟩ := h.current (by simp [hp, Phase.hasCurrent])
    have hsound : s.TableSound := hs (by simp [hp, Phase.mode]) (by simp [hp])
    exact fun _ _ => (tableSound_tabAppend h.reg he hcur hlow hc hsound).congr rfl rfl rfl rfl
  | firstEos hp | firstLit hp | xEmit hp | pushEnd hp | push hp | popEnd hp | pop hp | readEos hp
  | read hp | resolveEos hp | hit hp | selfref hp | xNoGrow hp | xAdv hp =>
    have hsound : s.TableSound := hs (by simp [hp, Phase.mode]) (by simp [hp])
    exact fun _ _ => hsound.congr rfl rfl rfl rfl
  | cSeed | matchEnd | matchStart | walkEnd | walkVisit | cEmit | cGrow | cNoGrow | cAdv | cEos
  | cClose | truncated | firstBad | resolveBad | xClose =>
    exact tableInv_of_mode_ne (by simp [Phase.mode])

/-- A CMD write leaves no expand run past X_SEED. -/
theorem CmdEffect.tableInv {v : Word} {s t : State} (he : CmdEffect v s t) : TableInv t := by
  cases he with
  | expand => exact fun _ hp => absurd rfl hp
  | abort | tooLong | compress | usage => exact tableInv_of_mode_ne (by simp [Phase.mode])

/-- Settles O42: the engine's moves keep the representation, a CMD write and reset leave no run that asks
for it, and the other moves of the host do not touch the table. -/
theorem tableRefinesT : Obligations.TableRefinesT := by
  intro s t h hs ht
  rcases step_cases ht with ⟨ts, -, hm⟩ | ⟨v, ts, -, he⟩ | ⟨ts, -, rfl⟩ | hpass
  · exact hm.tableInv (h.withTurns ts) fun hm hp => (hs hm hp).congr rfl rfl rfl rfl
  · exact he.tableInv
  · exact tableInv_of_mode_ne (by simp [Phase.mode])
  · rw [hpass]
    exact fun hm hp => (hs hm hp).congr rfl rfl rfl rfl

end Sys2Proof.Machine
end

section
/-! The reconstruction (41_code_table R139, R140): the equation of each step of X_EMIT, X_PUSH and X_POP,
and the run of them that delivers T(CUR). -/

namespace Sys2Proof.Machine

/-! ## One step -/

/-- The state after X_EMIT: the LIFO is empty, and the chain starts at CUR (R139). -/
def State.emitting (s : State) : State := { s with sp := 0, p := s.cur, phase := .xPush }

theorem tabAt_emitting (s : State) (k : Code) : s.emitting.tabAt k = s.tabAt k := rfl

theorem engineStep_xEmit {s : State} (hp : s.phase = .xEmit) :
    engineStep s = .next s.emitting := by
  rw [engineStep, hp]
  rfl

theorem engineStep_xPush_end {s : State} (hp : s.phase = .xPush) (hnil : s.p = Config.nil) :
    engineStep s = .next { s with phase := .xPop } := by
  rw [engineStep, hp]
  exact if_pos hnil

/-- The state after one push: the byte of the entry P goes to the LIFO, and P follows the link (R139). -/
def State.pushed (s : State) : State :=
  { s with
    lifo := Memory.write s.lifo s.sp.toNat (s.tabAt s.p).suffix
    sp := s.sp + 1
    p := (s.tabAt s.p).pre }

theorem tabAt_pushed (s : State) (k : Code) : s.pushed.tabAt k = s.tabAt k := rfl

theorem engineStep_xPush {s : State} (hp : s.phase = .xPush) (hnil : s.p ≠ Config.nil)
    (hs : s.sp.toNat < 3840) : engineStep s = .next s.pushed := by
  have hroom : s.sp.toNat < Config.maxSeqLen := hs
  rw [engineStep, hp]
  simp only [phaseXPush, if_neg hnil, if_pos hroom, ← hp]
  rfl

theorem engineStep_xPop_end {s : State} (hp : s.phase = .xPop) (hs : s.sp = 0) :
    engineStep s = .next { s with phase := .xRead } := by
  rw [engineStep, hp]
  exact if_pos hs

/-- The state after one pop: the byte on top of the LIFO is delivered and counted (R139). -/
def State.popped (s : State) : State :=
  { s with
    sp := s.sp - 1
    sink := s.sink ++ [.byte (s.lifoAt (s.sp.toNat - 1))]
    byteCount := s.byteCount + 1 }

theorem engineStep_xPop {s : State} (hp : s.phase = .xPop) (hpos : 0 < s.sp.toNat)
    (hs : s.sp.toNat ≤ 3840) : engineStep s = .next s.popped := by
  have hne : s.sp ≠ 0 := fun hzero => by simp [hzero] at hpos
  have hroom : s.sp.toNat ≤ Config.maxSeqLen := hs
  rw [engineStep, hp]
  simp only [phaseXPop, if_neg hne, if_pos hroom, ← hp]
  rfl

theorem pushed_sp_toNat {s : State} (hs : s.sp.toNat < 3840) :
    s.pushed.sp.toNat = s.sp.toNat + 1 :=
  BitVec.toNat_add_of_lt (by simp; omega)

theorem popped_sp_toNat {s : State} (hpos : 0 < s.sp.toNat) :
    s.popped.sp.toNat = s.sp.toNat - 1 :=
  BitVec.toNat_sub_of_le (x := s.sp) (y := 1) hpos

/-- A push writes the byte at SP and no other (R139). -/
theorem lifoAt_pushed (s : State) (a : Nat) :
    s.pushed.lifoAt a = if a = s.sp.toNat then (s.tabAt s.p).suffix else s.lifoAt a := by
  simp only [State.lifoAt, State.pushed, Memory.read_write]
  split <;> rfl

/-- Settles O40: the equations of the five steps, and the law of the LIFO for the byte pushed. -/
theorem reconstructPhases : Obligations.ReconstructPhases :=
  ⟨fun _ hp => engineStep_xEmit hp,
    fun _ hp hnil => engineStep_xPush_end hp hnil,
    fun s hp hnil hs =>
      ⟨s.pushed, engineStep_xPush hp hnil hs, rfl, pushed_sp_toNat hs, lifoAt_pushed s⟩,
    fun _ hp hs => engineStep_xPop_end hp hs,
    fun s hp hpos hs => ⟨s.popped, engineStep_xPop hp hpos hs, popped_sp_toNat hpos, rfl⟩⟩

/-! ## The LIFO as a stack -/

/-- The bytes of the LIFO below the depth `d`, the one on top first. -/
def State.stack (s : State) : Nat → Seq
  | 0 => []
  | d + 1 => s.lifoAt d :: s.stack d

theorem stack_congr {s t : State} {d : Nat} (h : ∀ a < d, t.lifoAt a = s.lifoAt a) :
    t.stack d = s.stack d := by
  induction d with
  | zero => rfl
  | succ d ih =>
    rw [State.stack, State.stack, h d (Nat.lt_succ_self d),
      ih fun a ha => h a (Nat.lt_succ_of_lt ha)]

/-- A push puts the byte of the entry P on top of the stack. -/
theorem stack_pushed {s : State} (hs : s.sp.toNat < 3840) :
    s.pushed.stack s.pushed.sp.toNat = (s.tabAt s.p).suffix :: s.stack s.sp.toNat := by
  rw [pushed_sp_toNat hs, State.stack, lifoAt_pushed, if_pos rfl,
    stack_congr fun a ha => (lifoAt_pushed s a).trans (if_neg (Nat.ne_of_lt ha))]

/-! ## Runs -/

theorem engineRun_succ {s t : State} (h : engineStep s = .next t) (k : Nat) :
    engineRun (k + 1) s = engineRun k t := by
  rw [engineRun, h]

theorem engineRun_add {m : Nat} {s t : State} (h : engineRun m s = .next t) (k : Nat) :
    engineRun (m + k) s = engineRun k t := by
  induction m generalizing s with
  | zero =>
    cases h
    rw [Nat.zero_add]
  | succ m ih =>
    rw [Nat.succ_add]
    rw [engineRun] at h
    split at h
    · next u hu => rw [engineRun_succ hu, ih h]
    · cases h
    · cases h

/-- X_PUSH puts the bytes the chain leads to on the stack, first byte on top, one step for each and one
for the end of the chain (R139). -/
theorem engineRun_xPush {s : State} (h : ∀ k, s.bound k → s.entryOk k) (hp : s.phase = .xPush)
    (hlink : s.p = Config.nil ∨ s.bound s.p)
    (hfit : s.sp.toNat + (s.chainBytes s.p).length ≤ 3840) :
    ∃ t, engineRun ((s.chainBytes s.p).length + 1) s = .next t ∧
      t = { s with p := t.p, sp := t.sp, lifo := t.lifo, phase := .xPop } ∧
      t.sp.toNat = s.sp.toNat + (s.chainBytes s.p).length ∧
      t.stack t.sp.toNat = s.chainBytes s.p ++ s.stack s.sp.toNat := by
  induction hx : s.chainBytes s.p using List.reverseRecOn generalizing s with
  | nil =>
    rcases hlink with hnil | hbound
    · exact ⟨_, engineRun_succ (engineStep_xPush_end hp hnil) 0, rfl, rfl,
        stack_congr fun _ _ => rfl⟩
    · rw [chainBytes_of_ne_nil s hbound.ne_nil, seqOf_eq h hbound] at hx
      simp at hx
  | append_singleton x b ih =>
    have hbound : s.bound s.p := hlink.resolve_left fun hnil => by simp [hnil] at hx
    have hlen : (x ++ [b]).length = x.length + 1 := List.length_append
    rw [hx, hlen] at hfit
    have hroom : s.sp.toNat < 3840 := by omega
    rw [chainBytes_of_ne_nil s hbound.ne_nil, seqOf_eq h hbound] at hx
    obtain ⟨hpre, hb⟩ := List.append_inj' hx rfl
    have hrest : s.pushed.chainBytes s.pushed.p = x :=
      (chainBytes_congr (tabAt_pushed s) _).trans hpre
    have hlink' : s.pushed.p = Config.nil ∨ s.bound s.pushed.p :=
      (h _ hbound).pre_cases.imp And.left And.left
    obtain ⟨t, hrun, ht, hsp, hstack⟩ := ih (s := s.pushed) h hp hlink'
      (by rw [hrest, pushed_sp_toNat hroom]; omega) hrest
    refine ⟨t, ?run, ht, ?sp, ?stack⟩
    case run => rw [hlen, engineRun_succ (engineStep_xPush hp hbound.ne_nil hroom), hrun]
    case sp => rw [hsp, pushed_sp_toNat hroom, hlen, Nat.succ_add_eq_add_succ]
    case stack =>
      rw [hstack, stack_pushed hroom, List.append_assoc, ← hb]
      rfl

/-- X_POP delivers the stack from the top down and counts its bytes, one step for each and one for the
end (R139). -/
theorem engineRun_xPop {s : State} (hp : s.phase = .xPop) (hs : s.sp.toNat ≤ 3840) :
    engineRun (s.sp.toNat + 1) s = .next { s with
      sp := 0
      phase := .xRead
      sink := s.sink ++ (s.stack s.sp.toNat).map .byte
      byteCount := s.byteCount + BitVec.ofNat 32 s.sp.toNat } := by
  induction hd : s.sp.toNat generalizing s with
  | zero =>
    have hzero : s.sp = 0 := BitVec.eq_of_toNat_eq hd
    rw [engineRun_succ (engineStep_xPop_end hp hzero), State.stack, List.map_nil, List.append_nil,
      BitVec.add_zero, ← hzero]
    rfl
  | succ d ih =>
    have hpos : 0 < s.sp.toNat := by omega
    have hsp : s.popped.sp.toNat = d := by rw [popped_sp_toNat hpos, hd, Nat.add_sub_cancel]
    have hstack : s.popped.stack d = s.stack d := stack_congr fun _ _ => rfl
    have htop : s.popped.sink = s.sink ++ [.byte (s.lifoAt d)] := by
      rw [State.popped, hd, Nat.add_sub_cancel]
    have hcount : s.popped.byteCount = s.byteCount + 1 := rfl
    rw [engineRun_succ (engineStep_xPop hp hpos hs), ih (s := s.popped) hp (by omega) hsp, hstack,
      htop, hcount, State.stack, List.map_cons, List.append_assoc, List.singleton_append,
      BitVec.ofNat_add, BitVec.add_assoc, BitVec.add_comm 1]
    rfl

/-! ## The whole reconstruction -/

/-- Settles O43: X_EMIT starts the chain at CUR, X_PUSH puts T(CUR) on the stack, X_POP delivers it; the
ends of the two loops and X_EMIT itself are the remaining three steps. -/
theorem reconstructEmitsCurrent : Obligations.ReconstructEmitsCurrent := by
  intro s q h hs hp hq
  have hhas : s.phase.hasCurrent := .inl hp
  obtain ⟨he, -, hcur⟩ := h.current hhas
  obtain ⟨htab, -, hlen⟩ := hs hhas.mode_eq (by simp [hp]) s.cur hcur
  obtain rfl : s.seqOf s.cur = q := Option.some_inj.1 (htab.symm.trans hq)
  have hfit : (s.seqOf s.cur).length ≤ 3840 := hlen ▸ len_current_le h hhas
  have hbytes : s.emitting.chainBytes s.emitting.p = s.seqOf s.cur :=
    (chainBytes_congr (tabAt_emitting s) _).trans (chainBytes_of_ne_nil s hcur.ne_nil)
  have hzero : s.emitting.sp.toNat = 0 := rfl
  obtain ⟨t, hpush, ht, hsp, hstack⟩ := engineRun_xPush (s := s.emitting) he rfl (.inr hcur)
    (by rw [hbytes, hzero]; omega)
  rw [hbytes, hzero, Nat.zero_add] at hsp
  rw [hbytes] at hpush
  rw [hbytes, hzero, State.stack, List.append_nil] at hstack
  have hpop := engineRun_xPop (s := t) (by rw [ht]) (hsp ▸ hfit)
  rw [hstack, hsp] at hpop
  have hsteps : 2 * (s.seqOf s.cur).length + 3 =
    (s.seqOf s.cur).length + 1 + ((s.seqOf s.cur).length + 1) + 1 := by omega
  rw [hsteps, engineRun_succ (engineStep_xEmit hp), engineRun_add hpush, hpop]
  refine ⟨_, rfl, ?_⟩
  rw [ht]
  rfl

end Sys2Proof.Machine
end

section
/-! The command CMD_COMPRESS (42_compress R160) and the phases C_EMIT, C_GROW, C_ADV, C_EOS, C_CLOSE and
X_CLOSE (42_compress R163 to R167, 43_expand R204): the equation of each of their steps. -/

namespace Sys2Proof.Machine

/-! ## The command -/

/-- A COMPRESS that is accepted and fits INBUF starts the run (R160, R233). -/
theorem startCompress_of_le {s : State} (h : s.inLen.toNat ≤ s.nMax.toNat) :
    s.startCompress = { s with n := s.inLen, phase := .cSeed } :=
  if_neg (Nat.not_lt.2 h)

/-- Settles O15: the command of a machine at rest is accepted, and the run it starts fits INBUF. -/
theorem compressCommandStartsRun : Obligations.CompressCommandStartsRun := by
  intro s hb hn
  have hstart := startCompress_of_le (s := s.acceptCmd) hn
  rw [exec, execCmdCompress, if_neg (by simp [hb]), hstart]
  rfl

/-! ## The phases that deliver -/

theorem engineStep_cEmit {s : State} (hp : s.phase = .cEmit) :
    engineStep s = .next { s with
      sink := s.sink ++ [.code s.bestCode], codeCount := s.codeCount + 1, phase := .cGrow } := by
  rw [engineStep, hp]
  rfl

theorem engineStep_cEos {s : State} (hp : s.phase = .cEos) :
    engineStep s = .next { s with
      sink := s.sink ++ [.code Config.eos], codeCount := s.codeCount + 1, phase := .cClose } := by
  rw [engineStep, hp]
  rfl

theorem engineStep_close {s : State} (hp : s.phase = .cClose ∨ s.phase = .xClose) :
    engineStep s = .next { s with sink := s.sink ++ [.close], phase := .done } := by
  rcases hp with hp | hp <;> rw [engineStep, hp] <;> rfl

/-- Settles O35: the equations of the phases that deliver a code or Close. -/
theorem emitAndClosePhases : Obligations.EmitAndClosePhases :=
  ⟨fun _ hp => engineStep_cEmit hp, fun _ hp => engineStep_cEos hp, fun _ hp => engineStep_close hp⟩

/-! ## C_ADV -/

/-- The sum I + BEST_LEN does not wrap where the match is inside the input (R37). -/
theorem afterMatch_toNat_of_le {s : State} (h : s.i.toNat + s.bestLen.toNat ≤ s.n.toNat) :
    s.afterMatch.toNat = s.i.toNat + s.bestLen.toNat := by
  have hlen : (s.bestLen.setWidth 32).toNat = s.bestLen.toNat :=
    BitVec.toNat_setWidth_of_le (by decide)
  rw [State.afterMatch, BitVec.toNat_add_of_lt (by omega), hlen]

theorem engineStep_cAdv {s : State} (hp : s.phase = .cAdv) :
    engineStep s =
      .next { s with i := s.afterMatch, byteCount := s.afterMatch, phase := .cMatch } := by
  rw [engineStep, hp]
  rfl

/-- Settles O36: the equation of C_ADV, whose sum does not wrap. -/
theorem cAdvPhase : Obligations.CAdvPhase :=
  fun _ hp hfits => ⟨_, engineStep_cAdv hp, afterMatch_toNat_of_le hfits, rfl, rfl⟩

/-! ## C_GROW -/

/-- C_GROW inserts where there is a byte after the match and a code to bind (R164). -/
theorem engineStep_cGrow_insert {s : State} (hp : s.phase = .cGrow)
    (hlt : s.i.toNat + s.bestLen.toNat < s.n.toNat) (hn : s.n.toNat ≤ s.nMax.toNat)
    (hc : s.nextCode.toNat < 4096) : engineStep s =
      .next { s.trieInsert (s.inbufByte s.afterMatch) with phase := .cAdv } := by
  have hbyte : s.engineByte s.afterMatch = some (s.inbufByte s.afterMatch) :=
    engineByte_of_lt (by rw [afterMatch_toNat_of_le (Nat.le_of_lt hlt)]; omega)
  rw [engineStep, hp]
  simp only [phaseCGrow, if_pos (And.intro hlt ((lt_limit_iff _).2 hc)), hbyte]

/-- C_GROW changes nothing at the end of the input (R169) and with the codes used up (R171). -/
theorem engineStep_cGrow_skip {s : State} (hp : s.phase = .cGrow)
    (hn : ¬ (s.i.toNat + s.bestLen.toNat < s.n.toNat ∧ s.nextCode.toNat < 4096)) :
    engineStep s = .next { s with phase := .cAdv } := by
  rw [← lt_limit_iff] at hn
  rw [engineStep, hp]
  exact if_neg hn

/-- The arena after TRIE_INSERT, with the new node first (R117). -/
theorem nodeAt_trieInsert_new_first (s : State) (b : Byte) (q : Code)
    (hm : s.missNode ≠ codeOfCounter s.nextCode) :
    (s.trieInsert b).nodeAt q =
      if q = codeOfCounter s.nextCode then newNode b (codeOfCounter s.nextCode)
      else if q = s.missNode then setLink (s.nodeAt q) s.missDir (codeOfCounter s.nextCode)
      else s.nodeAt q := by
  rw [nodeAt_trieInsert s b q hm]
  by_cases hq : q = s.missNode
  · rw [if_pos hq, if_neg (hq ▸ hm), if_pos hq, hq]
  · rw [if_neg hq, if_neg hq]

/-- D of a seeded run is decided by the learned bindings (R42). -/
theorem dict_of_nextCode_pos {s : State} (h : 0 < s.nextCode.toNat) (x : Seq) :
    s.dict x = dictLookup s.assigns x :=
  if_neg fun hzero => by simp [hzero] at h

/-- Settles O34: the insertion by the laws of TRIE_INSERT and of the dictionary it adds a key to, and the
two cases that change nothing. -/
theorem cGrowPhase : Obligations.CGrowPhase := by
  refine ⟨?insert, fun s hp hskip => engineStep_cGrow_skip hp (by omega)⟩
  rintro s k w hp hlt hn hpos hc hk hmiss hlen rfl
  obtain rfl : k = codeOfCounter s.nextCode :=
    BitVec.eq_of_toNat_eq (hk.trans (codeOfCounter_toNat hc).symm)
  have hsucc : (s.nextCode + 1).toNat = s.nextCode.toNat + 1 := counter_succ hc
  have hpos' : 0 < (s.nextCode + 1).toNat := hsucc ▸ Nat.succ_pos _
  have hw : 2 ≤ (s.inbufSlice s.i (s.bestLen.toNat + 1)).length := by
    rw [length_inbufSlice]
    omega
  refine ⟨_, engineStep_cGrow_insert hp hlt hn hc, rfl, hsucc, ?exhausted, fun q => ?node,
    fun hnew => ?bound, fun x hx => ?other⟩
  case exhausted =>
    rw [exhausted_eq, trieInsert_nextCode, hsucc]
    exact decide_eq_decide.2 Nat.succ_inj
  case node => exact nodeAt_trieInsert_new_first s _ q hmiss
  case bound =>
    rw [dict_of_nextCode_pos hpos] at hnew
    rw [dict_of_nextCode_pos hpos']
    exact dictLookup_append_self hw hnew
  case other =>
    rw [dict_of_nextCode_pos hpos, dict_of_nextCode_pos hpos']
    exact dictLookup_append_ne hx

end Sys2Proof.Machine
end

section
/-! The loop of COMPRESS (42_compress R168), one round at a time. -/

namespace Sys2Proof.Machine

/-- The growth after a match of length `l` (R108): the match and the byte after it are bound, if there is
such a byte and a code left. -/
def growth (learned : List Binding) (next : Nat) (x : Seq) (l : Nat) : CompressResult :=
  let d := if l < x.length then bindNext learned next (x.take (l + 1)) else (learned, next)
  { codes := [], learned := d.1, next := d.2 }

/-- One round of the loop on the rest `x`: the code of the longest match, and the growth. -/
def segment (learned : List Binding) (next : Nat) (x : Seq) : CompressResult :=
  { growth learned next x (longestLen learned x) with
    codes := [(dictLookup learned (longestPrefix learned x)).getD 0] }

/-- What two parts of a run come to: the codes of both, and the bindings at the end of the second. -/
def CompressResult.andThen (r q : CompressResult) : CompressResult :=
  { q with codes := r.codes ++ q.codes }

theorem growth_of_lt {learned : List Binding} {next l : Nat} {x : Seq} (hl : l < x.length)
    (hnext : next < 4096) : growth learned next x l =
      { codes := [], learned := learned ++ [(BitVec.ofNat 12 next, x.take (l + 1))]
        next := next + 1 } := by
  rw [growth, if_pos hl, bindNext, if_pos hnext]

theorem growth_of_not {learned : List Binding} {next l : Nat} {x : Seq}
    (h : ¬ (l < x.length ∧ next < 4096)) : growth learned next x l =
      { codes := [], learned := learned, next := next } := by
  rw [growth]
  split
  · next hl => rw [bindNext, if_neg fun hnext => h ⟨hl, hnext⟩]
  · rfl

/-- The loop is one round, and the loop on what the match leaves. -/
theorem compressLoop_of_ne_nil (fuel : Nat) (learned : List Binding) (next : Nat) {x : Seq}
    (hx : x ≠ []) : compressLoop (fuel + 1) learned next x =
      (segment learned next x).andThen (compressLoop fuel (segment learned next x).learned
        (segment learned next x).next (x.drop (longestLen learned x))) := by
  cases x with
  | nil => exact absurd rfl hx
  | cons => rfl

theorem compressLoop_nil (fuel : Nat) (learned : List Binding) (next : Nat) :
    compressLoop fuel learned next [] = { codes := [], learned := learned, next := next } := by
  cases fuel <;> rfl

theorem length_longestPrefix (learned : List Binding) (x : Seq) :
    (longestPrefix learned x).length = longestLen learned x :=
  List.length_take_of_le (longestUpTo_le learned x x.length)

end Sys2Proof.Machine
end

section
/-! A compress run delivers COMPRESS(X) (42_compress R168): each round of the engine's loop, from C_MATCH
to C_MATCH, is one round of the abstract loop on the rest of the input. -/

namespace Sys2Proof.Machine

/-! ## Parts of a run -/

/-- The engine gets from `s` to `t`, a state of a compress run past C_SEED: it has delivered and counted
the codes of `r`, its bindings and NEXT_CODE are those of `r`, and it has not touched its input. -/
structure State.RunsTo (s t : State) (r : CompressResult) : Prop where
  reached : ∃ m, engineRun m s = .next t
  run : t.CompressRun
  sink : t.sink = s.sink ++ r.codes.map .code
  count : t.codeCount = s.codeCount + BitVec.ofNat 32 r.codes.length
  learned : t.assigns = r.learned
  next : t.nextCode.toNat = r.next
  n : t.n = s.n
  input : t.input = s.input
  reads : t.reads = s.reads

/-- A part of the run that delivers the codes `cs` and binds nothing. -/
def State.delivering (s : State) (cs : List Code) : CompressResult :=
  { codes := cs, learned := s.assigns, next := s.nextCode.toNat }

theorem State.RunsTo.trans {s t u : State} {r q : CompressResult} (h : s.RunsTo t r)
    (h' : t.RunsTo u q) : s.RunsTo u (r.andThen q) where
  reached := by
    obtain ⟨m, hm⟩ := h.reached
    obtain ⟨k, hk⟩ := h'.reached
    exact ⟨m + k, (engineRun_add hm k).trans hk⟩
  run := h'.run
  sink := by rw [h'.sink, h.sink, CompressResult.andThen, List.map_append, List.append_assoc]
  count := by
    rw [h'.count, h.count, CompressResult.andThen, List.length_append, BitVec.ofNat_add,
      BitVec.add_assoc]
  learned := h'.learned
  next := h'.next
  n := h'.n.trans h.n
  input := h'.input.trans h.input
  reads := h'.reads.trans h.reads

/-- A part that only delivers, after another one. -/
theorem State.RunsTo.deliver {s t u : State} {r : CompressResult} {cs : List Code}
    (h : s.RunsTo t r) (h' : t.RunsTo u (t.delivering cs)) :
    s.RunsTo u { r with codes := r.codes ++ cs } := by
  have hrun := h.trans h'
  rwa [State.delivering, h.learned, h.next] at hrun

theorem EngineMove.epoch_eq {s t : State} (hm : EngineMove s t) : t.epoch = s.epoch := by
  cases hm <;> simp

/-- No phase changes the input of the run (R61). -/
theorem EngineMove.input_eq {s t : State} (hm : EngineMove s t) : t.input = s.input := by
  simp only [State.input, State.inbufSlice, hm.n_eq, inbufByte_congr hm.inbuf_eq hm.epoch_eq]

/-- Only the phases of an expand run take codes from the source (R18). -/
theorem EngineMove.reads_eq {s t : State} (hm : EngineMove s t)
    (hx : s.phase ≠ .xFirst ∧ s.phase ≠ .xRead) : t.reads = s.reads := by
  cases hm
  case firstEos hp _ | firstLit hp _ _ _ | firstBad hp _ _ _ => exact absurd hp hx.1
  case readEos hp _ | read hp _ _ _ => exact absurd hp hx.2
  all_goals simp

/-- A step of a run is a part of it that takes no code and keeps the input. -/
theorem runsTo_of_engineStep {s t : State} {r : CompressResult} (ht : engineStep s = .next t)
    (hx : s.phase ≠ .xFirst ∧ s.phase ≠ .xRead) (run : t.CompressRun)
    (sink : t.sink = s.sink ++ r.codes.map .code)
    (count : t.codeCount = s.codeCount + BitVec.ofNat 32 r.codes.length)
    (learned : t.assigns = r.learned) (next : t.nextCode.toNat = r.next) : s.RunsTo t r :=
  have hm := engineStep_moves ht
  { reached := ⟨1, engineRun_succ ht 0⟩
    run, sink, count, learned, next
    n := hm.n_eq
    input := hm.input_eq
    reads := hm.reads_eq hx }

/-- One step past C_SEED as a part of the run; what the phase does not touch is filled in. -/
theorem State.CompressRun.runsTo {s t : State} {r : CompressResult} (h : s.CompressRun)
    (ht : engineStep s = .next t)
    (sink : t.sink = s.sink ++ r.codes.map .code := by simp [State.delivering])
    (count : t.codeCount = s.codeCount + BitVec.ofNat 32 r.codes.length := by simp [State.delivering])
    (learned : t.assigns = r.learned := by simp [State.delivering])
    (next : t.nextCode.toNat = r.next := by simp [State.delivering]) : s.RunsTo t r := by
  have hx : s.phase ≠ .xFirst ∧ s.phase ≠ .xRead := by
    constructor <;> intro hp <;> exact absurd h.phase (by simp [hp])
  exact runsTo_of_engineStep ht hx (h.move (engineStep_moves ht)) sink count learned next

/-! ## The rest of the input -/

/-- The rest of the input, X[I..N). -/
def State.rest (s : State) : Seq := s.input.drop s.i.toNat

@[simp] theorem length_rest (s : State) : s.rest.length = s.n.toNat - s.i.toNat := by
  simp [State.rest, State.input]

theorem State.RunsTo.rest_eq {s t : State} {r : CompressResult} (h : s.RunsTo t r)
    (hi : t.i = s.i) : t.rest = s.rest := by
  rw [State.rest, h.input, hi, State.rest]

/-- At C_MATCH there is input left unless I is at its end (R162). -/
theorem State.CompressRun.rest_eq_nil_iff {s : State} (h : s.CompressRun) (hp : s.phase = .cMatch) :
    s.rest = [] ↔ s.i = s.n := by
  obtain ⟨hbase, -⟩ := h.inv.compressBase (.inl hp)
  have hle := hbase.i_le
  rw [← List.length_eq_zero_iff, length_rest, ← BitVec.toNat_inj]
  omega

/-! ## C_MATCH to C_GROW -/

/-- The walk comes to its end, for each visit moves the miss to a later node (R122). -/
theorem State.CompressRun.runsTo_cEmit {s : State} (h : s.CompressRun) (hp : s.phase = .cWalk) :
    ∃ t, s.RunsTo t (s.delivering []) ∧ t.phase = .cEmit ∧ t.i = s.i := by
  induction hd : 4096 - s.missNode.toNat using Nat.strong_induction_on generalizing s with
  | _ d ih =>
    by_cases hend : s.j = s.n ∨ s.p = Config.nil
    · exact ⟨_, h.runsTo (engineStep_cWalk_end hp hend), rfl, rfl⟩
    · obtain ⟨hjn, hnil⟩ := not_or.1 hend
      obtain ⟨hbase, -⟩ := h.inv.compressBase (.inr (.inl hp))
      have hmatch := h.inv.compress.matched (.inl hp)
      obtain ⟨hj, hlink⟩ := h.inv.compress.walking hp
      have hlt : s.j.toNat < s.n.toNat :=
        Nat.lt_of_le_of_ne (hj ▸ hmatch.fits) (mt BitVec.eq_of_toNat_eq hjn)
      obtain ⟨-, hlater, -⟩ := (h.trie.nodes _ hmatch.miss_bound).link (hlink ▸ hnil)
      rw [← hlink] at hlater
      have hvisit := engineStep_cWalk_visit hp hjn hnil (Nat.lt_of_lt_of_le hlt hbase.n_le)
      have hrun := h.runsTo hvisit (r := s.delivering [])
      have hlast := s.p.isLt
      obtain ⟨t, ht, hemit, hi⟩ := ih _ (by rw [walkVisit_missNode]; omega) hrun.run
        (by rw [walkVisit_phase, hp]) rfl
      exact ⟨t, hrun.deliver ht, hemit, by rw [hi, walkVisit_i]⟩

/-- At C_EMIT, BEST_LEN and BEST_CODE are those of the round (R116, R168). -/
theorem State.CompressRun.segment_codes {s : State} (h : s.CompressRun) (hp : s.phase = .cEmit) :
    s.bestLen.toNat = longestLen s.assigns s.rest ∧
      (segment s.assigns s.nextCode.toNat s.rest).codes = [s.bestCode] := by
  have hlongest : longestPrefix s.assigns s.rest = s.inbufSlice s.i s.bestLen.toNat :=
    h.longestPrefix_eq hp
  have hbest := (h.walk (.inr (.inl hp))).best
  rw [← length_longestPrefix, segment, hlongest, length_inbufSlice, ← h.trie.lookup, hbest]
  exact ⟨rfl, rfl⟩

/-- A round finds the longest match and delivers its code (R162, R163). -/
theorem State.CompressRun.runsTo_cGrow {s : State} (h : s.CompressRun) (hp : s.phase = .cMatch)
    (hi : s.i ≠ s.n) : ∃ t,
      s.RunsTo t (s.delivering (segment s.assigns s.nextCode.toNat s.rest).codes) ∧
      t.phase = .cGrow ∧ t.i = s.i ∧ t.bestLen.toNat = longestLen s.assigns s.rest := by
  obtain ⟨hbase, -⟩ := h.inv.compressBase (.inl hp)
  have hlt : s.i.toNat < s.n.toNat := Nat.lt_of_le_of_ne hbase.i_le (mt BitVec.eq_of_toNat_eq hi)
  have hstart := h.runsTo (r := s.delivering [])
    (engineStep_cMatch_start hp hi (Nat.lt_of_lt_of_le hlt hbase.n_le))
  obtain ⟨t, hwalk, hemit, hit⟩ := hstart.run.runsTo_cEmit rfl
  have hfound : s.RunsTo t (s.delivering []) := hstart.deliver hwalk
  have hrest : t.rest = s.rest := hfound.rest_eq hit
  have ha : t.assigns = s.assigns := hfound.learned
  have hc : t.nextCode.toNat = s.nextCode.toNat := hfound.next
  obtain ⟨hlen, hcode⟩ := hfound.run.segment_codes hemit
  rw [hrest, ha] at hlen
  rw [hrest, ha, hc] at hcode
  have hgrow := hfound.deliver (hfound.run.runsTo (r := t.delivering [t.bestCode])
    (engineStep_cEmit hemit))
  rw [hcode]
  exact ⟨_, hgrow, rfl, hit, hlen⟩

/-! ## C_GROW to C_MATCH -/

/-- C_GROW binds what the round binds (R164, R168). -/
theorem State.CompressRun.runsTo_cAdv {s : State} (h : s.CompressRun) (hp : s.phase = .cGrow) :
    ∃ t, s.RunsTo t (growth s.assigns s.nextCode.toNat s.rest s.bestLen.toNat) ∧
      t.phase = .cAdv ∧ t.i = s.i ∧ t.bestLen = s.bestLen := by
  obtain ⟨hbase, -⟩ := h.inv.compressBase (by simp [hp])
  have hleft : s.bestLen.toNat < s.rest.length ↔ s.i.toNat + s.bestLen.toNat < s.n.toNat := by
    rw [length_rest]
    omega
  by_cases hgrow : s.i.toNat + s.bestLen.toNat < s.n.toNat ∧ s.nextCode.toNat < 4096
  · obtain ⟨hlt, hc⟩ := hgrow
    have hslice : s.rest.take (s.bestLen.toNat + 1) = s.inbufSlice s.i (s.bestLen.toNat + 1) :=
      take_drop_input (by omega)
    have hcode : BitVec.ofNat 12 s.nextCode.toNat = codeOfCounter s.nextCode :=
      BitVec.ofNat_toNat 12 s.nextCode
    rw [growth_of_lt (hleft.2 hlt) hc, hslice, hcode]
    exact ⟨_, h.runsTo (engineStep_cGrow_insert hp hlt hbase.n_le hc) (next := counter_succ hc),
      rfl, rfl, rfl⟩
  · rw [growth_of_not (by rwa [hleft])]
    exact ⟨_, h.runsTo (engineStep_cGrow_skip hp hgrow), rfl, rfl, rfl⟩

/-- C_GROW and C_ADV end the round with I past the match (R164, R165). -/
theorem State.CompressRun.runsTo_cMatch {s : State} (h : s.CompressRun) (hp : s.phase = .cGrow) :
    ∃ t, s.RunsTo t (growth s.assigns s.nextCode.toNat s.rest s.bestLen.toNat) ∧
      t.phase = .cMatch ∧ t.rest = s.rest.drop s.bestLen.toNat := by
  obtain ⟨t, hgrow, hadv, hi, hlen⟩ := h.runsTo_cAdv hp
  have hmatch := hgrow.run.inv.compress.matched (by simp [hadv])
  have hrun := hgrow.deliver (hgrow.run.runsTo (r := t.delivering []) (engineStep_cAdv hadv))
  refine ⟨_, hrun, rfl, ?_⟩
  rw [State.rest, hrun.input, afterMatch_toNat hmatch, hi, hlen, ← List.drop_drop, ← State.rest]

/-! ## The rounds of the run -/

/-- What the loop of COMPRESS makes of the rest of the input in at most `fuel` rounds. -/
def State.loopResult (s : State) (fuel : Nat) : CompressResult :=
  compressLoop fuel s.assigns s.nextCode.toNat s.rest

/-- One round of the engine is one round of the loop. -/
theorem State.CompressRun.runsTo_segment {s : State} (h : s.CompressRun) (hp : s.phase = .cMatch)
    (hi : s.i ≠ s.n) : ∃ t, s.RunsTo t (segment s.assigns s.nextCode.toNat s.rest) ∧
      t.phase = .cMatch ∧ t.rest.length < s.rest.length ∧
      ∀ fuel, s.loopResult (fuel + 1) =
        (segment s.assigns s.nextCode.toNat s.rest).andThen (t.loopResult fuel) := by
  have hne : s.rest ≠ [] := mt (h.rest_eq_nil_iff hp).1 hi
  obtain ⟨u, hemit, hgrow, hiu, hlen⟩ := h.runsTo_cGrow hp hi
  obtain ⟨t, hend, hmatch, hrest⟩ := hemit.run.runsTo_cMatch hgrow
  rw [hemit.learned, hemit.next, hemit.rest_eq hiu, hlen] at hend
  rw [hemit.rest_eq hiu, hlen] at hrest
  have hrun : s.RunsTo t (segment s.assigns s.nextCode.toNat s.rest) := hemit.trans hend
  refine ⟨t, hrun, hmatch, ?shorter, fun fuel => ?loop⟩
  case shorter =>
    have hpos := longestLen_pos s.assigns hne
    have hlength := List.length_pos_of_ne_nil hne
    rw [hrest, List.length_drop]
    omega
  case loop =>
    rw [State.loopResult, State.loopResult, compressLoop_of_ne_nil _ _ _ hne, hrun.learned,
      hrun.next, hrest]

theorem loopResult_of_rest_eq_nil {s : State} (h : s.rest = []) (fuel : Nat) :
    s.loopResult fuel = s.delivering [] := by
  rw [State.loopResult, h, compressLoop_nil]
  rfl

theorem State.CompressRun.runsTo_self {s : State} (h : s.CompressRun) :
    s.RunsTo s (s.delivering []) where
  reached := ⟨0, rfl⟩
  run := h
  sink := (List.append_nil _).symm
  count := (BitVec.add_zero _).symm
  learned := rfl
  next := rfl
  n := rfl
  input := rfl
  reads := rfl

/-- The rounds of the engine end at the end of the input, and are those of the loop (R168). -/
theorem State.CompressRun.runsTo_end {s : State} (h : s.CompressRun) (hp : s.phase = .cMatch)
    {fuel : Nat} (hf : s.rest.length ≤ fuel) :
    ∃ t, s.RunsTo t (s.loopResult fuel) ∧ t.phase = .cMatch ∧ t.i = t.n := by
  induction fuel generalizing s with
  | zero =>
    have hnil : s.rest = [] := List.eq_nil_of_length_eq_zero (Nat.le_zero.1 hf)
    exact ⟨s, h.runsTo_self, hp, (h.rest_eq_nil_iff hp).1 hnil⟩
  | succ fuel ih =>
    by_cases hi : s.i = s.n
    · rw [loopResult_of_rest_eq_nil ((h.rest_eq_nil_iff hp).2 hi)]
      exact ⟨s, h.runsTo_self, hp, hi⟩
    · obtain ⟨t, hround, hpt, hshorter, hloop⟩ := h.runsTo_segment hp hi
      obtain ⟨u, hrounds, hend⟩ := ih hround.run hpt (by omega)
      exact ⟨u, hloop fuel ▸ hround.trans hrounds, hend⟩

/-- Where the loop delivers a code there is input left, and a round to take it. -/
theorem State.CompressRun.round_of_codes {s : State} (h : s.CompressRun) (hp : s.phase = .cMatch)
    {fuel : Nat} (hn : 0 < (s.loopResult fuel).codes.length) :
    s.i ≠ s.n ∧ ∃ f, fuel = f + 1 := by
  refine ⟨fun hi => ?_, Nat.exists_eq_succ_of_ne_zero fun hf => ?_⟩
  · rw [loopResult_of_rest_eq_nil ((h.rest_eq_nil_iff hp).2 hi)] at hn
    exact absurd hn (Nat.lt_irrefl 0)
  · rw [hf] at hn
    exact absurd hn (Nat.lt_irrefl 0)

/-- Right after its code `n + 1` is delivered the engine has the bindings of `n` rounds (R210). -/
theorem State.CompressRun.runsTo_point {s : State} (h : s.CompressRun) (hp : s.phase = .cMatch)
    {fuel n : Nat} (hn : n < (s.loopResult fuel).codes.length) :
    ∃ t, s.RunsTo t { s.loopResult n with codes := (s.loopResult fuel).codes.take (n + 1) } ∧
      t.phase = .cGrow := by
  induction n generalizing s fuel with
  | zero =>
    obtain ⟨hi, f, rfl⟩ := h.round_of_codes hp hn
    obtain ⟨t, -, -, -, hloop⟩ := h.runsTo_segment hp hi
    obtain ⟨g, hemit, hgrow, -⟩ := h.runsTo_cGrow hp hi
    rw [hloop]
    exact ⟨g, hemit, hgrow⟩
  | succ n ih =>
    obtain ⟨hi, f, rfl⟩ := h.round_of_codes hp (Nat.zero_lt_of_lt hn)
    obtain ⟨t, hround, hpt, -, hloop⟩ := h.runsTo_segment hp hi
    rw [hloop] at hn
    obtain ⟨g, hpoint, hgrow⟩ := ih hround.run hpt (fuel := f) (Nat.lt_of_succ_lt_succ hn)
    rw [hloop, hloop]
    exact ⟨g, hround.trans hpoint, hgrow⟩

/-! ## The whole run -/

/-- C_SEED starts the loop on the whole input, with nothing learned (R161, R286). -/
theorem runsTo_seeded {s : State} (h : Inv s) (hp : s.phase = .cSeed) : ∃ t,
    s.RunsTo t (t.delivering []) ∧ t.phase = .cMatch ∧
      ∀ fuel, t.loopResult fuel = compressLoop fuel [] 257 s.input := by
  obtain ⟨-, hcount, -⟩ := h.reg.seed_entry (.inl hp)
  have hrun := runsTo_of_engineStep (r := { codes := [], learned := s.assigns, next := 257 })
    (engineStep_cSeed hp) (by simp [hp]) (compressRun_seeded h hp) (by simp) (by simp [hcount])
    rfl rfl
  refine ⟨_, hrun, rfl, fun fuel => ?_⟩
  rw [State.loopResult, State.rest, hrun.input, hrun.learned, hrun.next,
    assigns_of_cSeed h.reg hp]
  rfl

/-- At the end of the input EOS and Close are delivered, in three steps (R162, R166, R167). -/
theorem engineRun_end {s : State} (hp : s.phase = .cMatch) (hi : s.i = s.n) :
    engineRun 3 s = .next { s with
      sink := s.sink ++ [.code Config.eos] ++ [.close], codeCount := s.codeCount + 1
      phase := .done } := by
  rw [engineRun_succ (engineStep_cMatch_end hp hi), engineRun_succ (engineStep_cEos rfl),
    engineRun_succ (engineStep_close (.inl rfl))]
  rfl

/-- The registers that a run without a fault leaves clear (R29, R35, R259). -/
theorem State.CompressRun.registers_clear {s : State} (h : s.CompressRun) (hp : s.phase = .cMatch) :
    s.cause = .none ∧ s.selfref = false ∧ s.faultInfo = 0 := by
  have hcause : s.cause = .none := by
    by_contra hne
    simpa [hp] using h.inv.reg.cause_iff.1 hne
  exact ⟨hcause, h.inv.reg.compress_selfref (by rw [hp]; rfl),
    h.inv.reg.faultInfo_zero.resolve_right (by simp [hcause])⟩

theorem compressAll_codes (x : Seq) :
    (compressAll x).codes = (compressLoop x.length [] 257 x).codes ++ [Config.eos] := rfl

/-- Settles O46: C_SEED starts the loop on the whole input, the rounds of the engine are those of the
loop, and at the end of the input EOS and Close follow. -/
theorem compressRunDelivers : Obligations.CompressRunDelivers := by
  intro s h hp
  obtain ⟨a, hseed, hpa, hloop⟩ := runsTo_seeded h hp
  refine ⟨?whole, fun n hpos hn => ?point⟩
  case whole =>
    have hlen : a.rest.length ≤ s.input.length := by
      rw [State.rest, hseed.input, List.length_drop]
      exact Nat.sub_le ..
    obtain ⟨b, hrounds, hpb, hib⟩ := hseed.run.runsTo_end hpa hlen
    have hrun : s.RunsTo b (compressLoop s.input.length [] 257 s.input) :=
      hloop _ ▸ hseed.trans hrounds
    obtain ⟨m, hm⟩ := hrun.reached
    obtain ⟨hbase, -⟩ := hrun.run.inv.compressBase (.inl hpb)
    obtain ⟨-, hcount, -⟩ := h.reg.seed_entry (.inl hp)
    obtain ⟨hcause, hselfref, hinfo⟩ := hrun.run.registers_clear hpb
    refine ⟨m + 3, _, (engineRun_add hm 3).trans (engineRun_end hpb hib), rfl, ?sink, hrun.next,
      ?count, ?bytes, hcause, hselfref, hinfo, hrun.learned, hrun.reads⟩
    case sink => simp [hrun.sink, compressAll_codes]
    case count =>
      have hb := hrun.count
      rw [hcount] at hb
      rw [compressAll_codes, List.length_append, BitVec.ofNat_add]
      exact congrArg (· + 1) (hb.trans (BitVec.zero_add _))
    case bytes => rw [hbase.byteCount_eq, hib, hrun.n]
  case point =>
    obtain ⟨n, rfl⟩ := Nat.exists_eq_add_of_le' hpos
    rw [compressAll_codes, List.length_append] at hn
    have hlt : n < (compressLoop s.input.length [] 257 s.input).codes.length :=
      Nat.lt_of_succ_lt_succ hn
    rw [← hloop] at hlt
    obtain ⟨g, hpoint, hgrow⟩ := hseed.run.runsTo_point hpa hlt
    have hrun := hseed.trans hpoint
    rw [hloop] at hlt
    rw [hloop, hloop] at hrun
    obtain ⟨m, hm⟩ := hrun.reached
    refine ⟨m, g, hm, hgrow, ?sink, hrun.next, hrun.learned⟩
    rw [compressAll_codes, List.take_append_of_le_length hlt]
    exact hrun.sink

end Sys2Proof.Machine
end

section
/-! The command CMD_EXPAND (43_expand R190) and the code words (43_expand R193 to R195, R198 to R201):
the effect of each in its context, and what the code words leave unchanged. -/

namespace Sys2Proof.Machine

/-! ## The command -/

/-- Settles O17: the command of a machine at rest is accepted and starts the run; of a busy one it aborts
the run in progress. -/
theorem expandCommand : Obligations.ExpandCommand := by
  refine ⟨fun s hb => ?accepted, fun s hb => ?busy⟩
  case accepted =>
    rw [exec, execCmdExpand, if_neg (by simp [hb])]
    rfl
  case busy => rw [exec, execCmdExpand, if_pos hb, State.abortRun, takeFault_busy hb]

/-! ## The first code -/

theorem busy_of_expanding {s : State} (h : s.phase.mode = .expanding) : s.busy = true :=
  (busy_iff s).2 (.inr h)

theorem exec_cwFirstEos {s : State} (hp : s.phase = .xFirst) (hk : s.k = Config.eos) :
    exec .cwFirstEos s = .next { s with phase := .xClose } :=
  inContext_of_true (inFirst_iff.2 ⟨hp, hk⟩)

theorem exec_cwFirstLit {s : State} {b : Byte} (hp : s.phase = .xFirst) (hk : s.k = byteCode b) :
    exec (.cwFirstLit b) s = .next { s with cur := byteCode b, phase := .xEmit } :=
  inContext_of_true (inFirst_iff.2 ⟨hp, hk⟩)

/-- A malformed code, in X_FIRST or X_RESOLVE, aborts the run (R195, R201, R252). -/
theorem takeFault_malformed {s : State} (hp : s.phase = .xFirst ∨ s.phase = .xResolve) (k : Code) :
    s.takeFault .malformed k = { s with
      sink := s.sink ++ [.abort], cause := .malformed, faultInfo := k, phase := .fault } :=
  takeFault_busy (busy_of_expanding (by rcases hp with hp | hp <;> rw [hp] <;> rfl)) _ _

theorem exec_cwFirstBad {s : State} {k : Code} (hp : s.phase = .xFirst) (hk : s.k = k)
    (hbad : 257 ≤ k.toNat) : exec (.cwFirstBad k) s = .next { s with
      sink := s.sink ++ [.abort], cause := .malformed, faultInfo := k, phase := .fault } := by
  rw [← takeFault_malformed (.inl hp)]
  exact inContext_of_true (Bool.and_eq_true_iff.2 ⟨inFirst_iff.2 ⟨hp, hk⟩, decide_eq_true hbad⟩)

/-- Settles O21: EOS in K in X_FIRST is the context of the row. -/
theorem firstEos : Obligations.FirstEos := fun _ hp hk => exec_cwFirstEos hp hk

/-- Settles O22: the row takes K as `current`, and a byte's code stands for the byte. -/
theorem firstLit : Obligations.FirstLit := by
  intro s b hp hk
  change s.k = byteCode b at hk
  have hlt : (byteCode b).toNat < 256 := byteCode_toNat b ▸ b.isLt
  refine ⟨?current, ?sequence⟩
  case current => rw [exec_cwFirstLit hp hk, ← hk]
  case sequence => rw [hk, tableLookup_of_lt _ hlt, litByte, byteCode_setWidth_byte]

/-- Settles O23: the row is the MALFORMED fault of a run in progress. -/
theorem firstBad : Obligations.FirstBad := fun _ _ hp hk hbad => exec_cwFirstBad hp hk hbad

/-! ## A later code -/

theorem exec_cwNextEos {s : State} (hp : s.phase = .xRead ∨ s.phase = .xResolve)
    (hk : s.k = Config.eos) : exec .cwNextEos s = .next { s with phase := .xClose } :=
  inContext_of_true (inNextEos_iff.2 ⟨hp, hk⟩)

/-- The context of the rows of X_RESOLVE, each with its comparison of the code with NEXT_CODE. -/
theorem inContext_resolve {s : State} {k : Code} {cmp : Prop} [Decidable cmp]
    (hp : s.phase = .xResolve) (hk : s.k = k) (hne : k ≠ Config.eos) (h : cmp) (t : State) :
    inContext (s.inResolve k && decide cmp) t = .next t :=
  inContext_of_true (Bool.and_eq_true_iff.2 ⟨inResolve_iff.2 ⟨hp, hk, hne⟩, decide_eq_true h⟩)

theorem exec_cwNextHit {s : State} {k : Code} (hp : s.phase = .xResolve) (hk : s.k = k)
    (hne : k ≠ Config.eos) (hlt : k.toNat < s.nextCode.toNat) :
    exec (.cwNextHit k) s = .next { s with nfirst := s.firstOf k, phase := .xGrow } :=
  inContext_resolve hp hk hne hlt _

theorem exec_cwNextSelfref {s : State} {k : Code} (hp : s.phase = .xResolve) (hk : s.k = k)
    (hne : k ≠ Config.eos) (heq : k.toNat = s.nextCode.toNat) :
    exec (.cwNextSelfref k) s =
      .next { s with nfirst := s.firstOf s.cur, selfref := true, phase := .xGrow } :=
  inContext_resolve hp hk hne heq _

theorem exec_cwNextBad {s : State} {k : Code} (hp : s.phase = .xResolve) (hk : s.k = k)
    (hne : k ≠ Config.eos) (hgt : s.nextCode.toNat < k.toNat) :
    exec (.cwNextBad k) s = .next { s with
      sink := s.sink ++ [.abort], cause := .malformed, faultInfo := k, phase := .fault } := by
  rw [← takeFault_malformed (.inr hp)]
  exact inContext_resolve hp hk hne hgt _

/-- Settles O24: EOS in K in either phase is the context of the row. -/
theorem nextEos : Obligations.NextEos := fun _ hp hk => exec_cwNextEos hp hk

/-- Settles O25: the row reads FIRST(k), and where the table represents T it is the first byte of
T(k). -/
theorem nextHit : Obligations.NextHit := by
  intro s k hp hk hne hlt
  refine ⟨exec_cwNextHit hp hk hne hlt, fun q hsound hq => ?_⟩
  obtain ⟨htable, hfirst, -⟩ := hsound k ⟨hne, hlt⟩
  obtain rfl : s.seqOf k = q := Option.some_inj.1 (htable.symm.trans hq)
  exact hfirst

/-- Settles O26: the row reads FIRST(CUR) and sets SELFREF. -/
theorem nextSelfref : Obligations.NextSelfref :=
  fun _ _ hp hk hne heq => exec_cwNextSelfref hp hk hne heq

/-- Settles O27: the row is the MALFORMED fault of a run in progress. -/
theorem nextBad : Obligations.NextBad := fun _ _ hp hk hne hgt => exec_cwNextBad hp hk hne hgt

/-! ## The frame -/

/-- Every next state of a code word: its row's effect (R193 to R195, R198 to R201). -/
inductive CodeWordEffect (s : State) : Instr → State → Prop
  | firstEos : CodeWordEffect s .cwFirstEos { s with phase := .xClose }
  | firstLit (b : Byte) :
      CodeWordEffect s (.cwFirstLit b) { s with cur := byteCode b, phase := .xEmit }
  | firstBad (k : Code) : CodeWordEffect s (.cwFirstBad k) (s.takeFault .malformed k)
  | nextEos : CodeWordEffect s .cwNextEos { s with phase := .xClose }
  | nextHit (k : Code) :
      CodeWordEffect s (.cwNextHit k) { s with nfirst := s.firstOf k, phase := .xGrow }
  | nextSelfref (k : Code) : CodeWordEffect s (.cwNextSelfref k)
      { s with nfirst := s.firstOf s.cur, selfref := true, phase := .xGrow }
  | nextBad (k : Code) : CodeWordEffect s (.cwNextBad k) (s.takeFault .malformed k)

/-- A code word that answers a next state has its row's effect. -/
theorem codeWord_effect {i : Instr} {s t : State} (ht : exec i s = .next t)
    (hi : i = .cwFirstEos ∨ (∃ b, i = .cwFirstLit b) ∨ (∃ k, i = .cwFirstBad k) ∨ i = .cwNextEos ∨
      (∃ k, i = .cwNextHit k) ∨ (∃ k, i = .cwNextSelfref k) ∨ ∃ k, i = .cwNextBad k) :
    CodeWordEffect s i t := by
  rcases hi with rfl | ⟨b, rfl⟩ | ⟨k, rfl⟩ | rfl | ⟨k, rfl⟩ | ⟨k, rfl⟩ | ⟨k, rfl⟩ <;>
    obtain ⟨-, rfl⟩ := inContext_next.1 ht
  · exact .firstEos
  · exact .firstLit b
  · exact .firstBad k
  · exact .nextEos
  · exact .nextHit k
  · exact .nextSelfref k
  · exact .nextBad k

/-- Settles O28: each row's effect is an update of the registers the statement names, or a fault
entry. -/
theorem codeWordFrame : Obligations.CodeWordFrame := by
  intro i s t ht hi
  have hmem : t.inbuf = s.inbuf ∧ t.node = s.node ∧ t.tab = s.tab ∧ t.lifo = s.lifo ∧
      t.epoch = s.epoch := by
    cases codeWord_effect ht hi <;> simp
  obtain ⟨hinbuf, hnode, htab, hlifo, hepoch⟩ := hmem
  refine ⟨inbufByte_congr hinbuf hepoch, nodeAt_congr hnode hepoch, tabAt_congr htab hepoch,
    fun a => by rw [State.lifoAt, State.lifoAt, hlifo, hepoch], ?_⟩
  cases codeWord_effect ht hi <;> simp

end Sys2Proof.Machine
end

section
/-! The phases X_SEED, X_FIRST, X_READ, X_GROW and X_ADV (43_expand R191, R192, R197, R202, R203): the
equation of each of their steps. -/

namespace Sys2Proof.Machine

/-! ## X_SEED -/

theorem engineStep_xSeed {s : State} (hp : s.phase = .xSeed) : engineStep s =
    .next { s.tabSeed with
      nextCode := Config.firstFree, codeCount := 0, byteCount := 0, phase := .xFirst } := by
  rw [engineStep, hp]
  rfl

/-- The seeded entry of a code's byte (R137). -/
theorem seedEntry_toNat (k : Code) : seedEntry k.toNat =
    { pre := Config.nil, suffix := k.setWidth 8, first := k.setWidth 8, len := 1 } := by
  rw [seedEntry, BitVec.ofNat_toNat]

/-- With nothing learned T is T0 (R131). -/
theorem tableLookup_nil (k : Code) :
    tableLookup [] k = if k.toNat < 256 then some [litByte k] else none := by
  split
  · next hk => exact tableLookup_of_lt [] hk
  · next hk =>
    have hclass : classOf k ≠ .lit := by
      rw [classOf, if_neg (by omega)]
      split <;> decide
    unfold tableLookup
    split
    · contradiction
    · rfl
    · rfl

/-- Settles O37: the entries by the law of TAB_SEED, and T by its value where nothing is learned. -/
theorem xSeedPhase : Obligations.XSeedPhase := by
  intro s hp
  refine ⟨_, engineStep_xSeed hp, rfl, fun k => ?entries, fun ha k => ?table⟩
  case entries =>
    have hseed := tabAt_tabSeed s k
    rw [seedEntry_toNat] at hseed
    exact hseed
  case table =>
    have ht0 := tableLookup_nil k
    rw [← ha] at ht0
    exact ht0

/-! ## X_FIRST and X_READ -/

/-- At the end of the data the run is aborted and no code is taken (R255). -/
theorem engineStep_truncated {s : State} (hp : s.phase = .xFirst ∨ s.phase = .xRead)
    (hk : s.srcCode = none) : engineStep s = .next { s with
      sink := s.sink ++ [.abort], cause := .truncated, faultInfo := 0, phase := .fault } := by
  rcases hp with hp | hp <;>
  · rw [← takeFault_busy (busy_of_expanding (congrArg Phase.mode hp))]
    simp only [engineStep, hp, phaseXFirst, phaseXRead, hk]

/-- A later code but EOS goes on to X_RESOLVE (R197). -/
theorem engineStep_xRead {s : State} {k : Code} (hp : s.phase = .xRead) (hk : s.srcCode = some k)
    (hne : k ≠ Config.eos) : engineStep s = .next { s.takeCode k with phase := .xResolve } := by
  simp only [engineStep, hp, phaseXRead, hk, if_neg hne]

/-- A byte's code decodes to the row of its byte (R86). -/
theorem decodeFirst_of_lt {k : Code} (hk : k.toNat < 256) :
    decodeFirst k = .cwFirstLit (k.setWidth 8) := by
  have hdec := decodeFirst_lit (k.setWidth 8)
  rwa [byteCode_setWidth hk] at hdec

/-- Settles O39: the end of the data is the TRUNCATED fault; otherwise the phase takes the code and runs
what its decoder reads. -/
theorem takeOneCode : Obligations.TakeOneCode := by
  refine ⟨fun s hp he => ?truncated, ?taken⟩
  case truncated =>
    exact ⟨_, engineStep_truncated hp (Option.isNone_iff_eq_none.1 he), rfl, rfl, rfl, rfl, rfl, rfl⟩
  case taken =>
    rintro s u k hk rfl
    refine ⟨fun hp => ⟨?eos, fun hlit => ?lit, fun hbad => ?bad⟩, fun hp => ⟨?endOfRun, ?resolve⟩⟩
    case eos =>
      rintro rfl
      exact engineStep_xFirst hp hk
    case lit => exact decodeFirst_of_lt (Nat.lt_succ_of_le hlit) ▸ engineStep_xFirst hp hk
    case bad => exact decodeFirst_bad hbad ▸ engineStep_xFirst hp hk
    case endOfRun =>
      rintro rfl
      exact engineStep_xRead_eos hp hk
    case resolve => exact engineStep_xRead hp hk

/-! ## X_GROW and X_ADV -/

/-- X_GROW appends while there is a code to bind (R202). -/
theorem engineStep_xGrow_append {s : State} (hp : s.phase = .xGrow) (hc : s.nextCode.toNat < 4096) :
    engineStep s = .next { s.tabAppend with phase := .xAdv } := by
  simp only [engineStep, hp, phaseXGrow, if_pos ((lt_limit_iff _).2 hc)]

/-- X_GROW changes nothing with the codes used up (R202). -/
theorem engineStep_xGrow_skip {s : State} (hp : s.phase = .xGrow) (hc : ¬ s.nextCode.toNat < 4096) :
    engineStep s = .next { s with phase := .xAdv } := by
  simp only [engineStep, hp, phaseXGrow, if_neg (mt (lt_limit_iff _).1 hc)]

theorem engineStep_xAdv {s : State} (hp : s.phase = .xAdv) :
    engineStep s = .next { s with cur := s.k, phase := .xEmit } := by
  rw [engineStep, hp]
  rfl

/-- Where the table represents T, the chain of a bound code spells its sequence (R141). -/
theorem State.TableSound.seqOf_eq {s : State} (h : s.TableSound) {k : Code} {q : Seq}
    (hk : s.bound k) (hq : s.table k = some q) : s.seqOf k = q := by
  obtain ⟨htable, -⟩ := h k hk
  exact Option.some_inj.1 (htable.symm.trans hq)

/-- Settles O41: the append by the laws of TAB_APPEND and of the table it adds a code to, and the two
steps that append nothing. -/
theorem xGrowAndAdvPhases : Obligations.XGrowAndAdvPhases := by
  refine ⟨?append, fun s hp hc => engineStep_xGrow_skip hp (by omega), fun s hp => engineStep_xAdv hp⟩
  intro s k q hp hlow hc hk hcur hsound hq
  obtain rfl : k = codeOfCounter s.nextCode :=
    BitVec.eq_of_toNat_eq (hk.trans (codeOfCounter_toNat hc).symm)
  obtain rfl := hsound.seqOf_eq hcur hq
  have hsucc : (s.nextCode + 1).toNat = s.nextCode.toNat + 1 := counter_succ hc
  have hlow' : 257 ≤ (s.nextCode + 1).toNat := hsucc ▸ Nat.le_succ_of_le hlow
  refine ⟨_, engineStep_xGrow_append hp hc, rfl, hsucc, ?exhausted, fun e => tabAt_tabAppend s e,
    fun hnew => ?bound, fun e he => ?other⟩
  case exhausted =>
    rw [exhausted_eq, tabAppend_nextCode, hsucc]
    exact decide_eq_decide.2 Nat.succ_inj
  case bound =>
    rw [table_eq_tableLookup hlow] at hnew
    rw [table_eq_tableLookup hlow']
    exact tableLookup_append_self (hk ▸ hlow) hnew
  case other =>
    rw [table_eq_tableLookup hlow, table_eq_tableLookup hlow']
    exact tableLookup_append_ne he

end Sys2Proof.Machine
end

section
/-! The loop of EXPAND (43_expand R205), one code at a time. -/

namespace Sys2Proof.Machine

/-- What two parts of a run come to: the bytes and the codes of both, and the end of the second. -/
def ExpandResult.andThen (r q : ExpandResult) : ExpandResult :=
  { q with out := r.out ++ q.out, count := r.count + q.count, selfref := r.selfref || q.selfref }

/-- The sequence a code stands for after `current` (R199, R200): the one it is bound to, or `current` and
its first byte. -/
def nextSeq (learned : List Binding) (next : Nat) (cur : Seq) (k : Code) : Seq :=
  if k.toNat < next then (tableLookup learned k).getD [] else cur ++ cur.take 1

/-- One round of the loop, for a code that does not end it: `current` is emitted, the code is read, and
the table grows. -/
def expandRound (learned : List Binding) (next : Nat) (cur : Seq) (k : Code) : ExpandResult :=
  let d := bindNext learned next (cur ++ (nextSeq learned next cur k).take 1)
  { out := cur, cause := .truncated, info := 0, next := d.2, count := 1
    selfref := decide (k.toNat = next), learned := d.1 }

theorem expandLoop_eos (ks : List Code) (learned : List Binding) (next : Nat) (cur : Seq) :
    expandLoop (Config.eos :: ks) learned next cur =
      { out := cur, cause := .none, info := 0, next := next, count := 1, selfref := false
        learned := learned } :=
  if_pos rfl

theorem expandLoop_malformed (ks : List Code) (learned : List Binding) {next : Nat} (cur : Seq)
    {k : Code} (hne : k ≠ Config.eos) (hgt : next < k.toNat) :
    expandLoop (k :: ks) learned next cur =
      { out := cur, cause := .malformed, info := k, next := next, count := 1, selfref := false
        learned := learned } := by
  rw [expandLoop, if_neg hne, if_pos hgt]

/-- The loop on a code that does not end it is one round, and the loop on the codes after it. -/
theorem expandLoop_cons (ks : List Code) (learned : List Binding) {next : Nat} (cur : Seq) {k : Code}
    (hne : k ≠ Config.eos) (hle : k.toNat ≤ next) : expandLoop (k :: ks) learned next cur =
      (expandRound learned next cur k).andThen
        (expandLoop ks (expandRound learned next cur k).learned (expandRound learned next cur k).next
          (nextSeq learned next cur k)) := by
  rw [expandLoop, if_neg hne, if_neg (Nat.not_lt.2 hle), ExpandResult.andThen, expandRound, nextSeq]
  simp only [Nat.add_comm 1, Bool.or_comm (decide _)]

/-- A code that leaves the run without a cause of its own neither ends it nor is malformed. -/
theorem of_cause_expandLoop_cons {ks : List Code} {learned : List Binding} {next : Nat} {cur : Seq}
    {k : Code} (h : (expandLoop (k :: ks) learned next cur).cause = .truncated) :
    k ≠ Config.eos ∧ k.toNat ≤ next := by
  have hne : k ≠ Config.eos := by
    rintro rfl
    rw [expandLoop_eos] at h
    cases h
  refine ⟨hne, Nat.not_lt.1 fun hgt => ?_⟩
  rw [expandLoop_malformed ks learned cur hne hgt] at h
  cases h

theorem bindNext_of_lt (learned : List Binding) {next : Nat} (w : Seq) (h : next < 4096) :
    bindNext learned next w = (learned ++ [(BitVec.ofNat 12 next, w)], next + 1) :=
  if_pos h

theorem bindNext_of_not_lt (learned : List Binding) {next : Nat} (w : Seq) (h : ¬ next < 4096) :
    bindNext learned next w = (learned, next) :=
  if_neg h

/-- A code bound before the growth keeps its sequence (R133). -/
theorem tableLookup_bindNext_of_lt {learned : List Binding} {next : Nat} {k : Code} (w : Seq)
    (hk : k.toNat < next) :
    tableLookup (bindNext learned next w).1 k = tableLookup learned k := by
  by_cases hc : next < 4096
  · rw [bindNext_of_lt _ _ hc]
    refine tableLookup_append_ne fun heq => ?_
    rw [heq, BitVec.toNat_ofNat, Nat.mod_eq_of_lt hc] at hk
    exact absurd hk (Nat.lt_irrefl _)
  · rw [bindNext_of_not_lt _ _ hc]

/-- The code equal to NEXT_CODE stands for what the growth binds (R133, R206). -/
theorem tableLookup_bindNext_self {learned : List Binding} {k : Code} (w : Seq) (hk : 257 ≤ k.toNat)
    (h : tableLookup learned k = none) :
    tableLookup (bindNext learned k.toNat w).1 k = some w := by
  rw [bindNext_of_lt _ _ k.isLt, BitVec.ofNat_toNat, BitVec.setWidth_eq]
  exact tableLookup_append_self hk h

/-- Once a round has grown the table, its code is bound to the sequence it was resolved to (R207). -/
theorem tableLookup_expandRound {learned : List Binding} {next : Nat} (cur : Seq) {k : Code}
    (hlow : 257 ≤ next) (hle : k.toNat ≤ next)
    (hold : k.toNat < next → (tableLookup learned k).isSome)
    (hnew : k.toNat = next → tableLookup learned k = none) :
    tableLookup (expandRound learned next cur k).learned k = some (nextSeq learned next cur k) := by
  rw [expandRound]
  rcases Nat.lt_or_eq_of_le hle with hlt | rfl
  · obtain ⟨w, hw⟩ := Option.isSome_iff_exists.1 (hold hlt)
    rw [tableLookup_bindNext_of_lt _ hlt, nextSeq, if_pos hlt, hw, Option.getD_some]
  · have hfirst : (cur ++ cur.take 1).take 1 = cur.take 1 := by cases cur <;> rfl
    rw [tableLookup_bindNext_self _ hlow (hnew rfl), nextSeq, if_neg (Nat.lt_irrefl _), hfirst]

/-! ## The first code -/

/-- The first code is read before the loop, and delivers and binds nothing (R192). -/
def firstRead : ExpandResult :=
  { out := [], cause := .truncated, info := 0, next := 257, count := 1, selfref := false
    learned := [] }

theorem expandAll_nil : expandAll [] = { firstRead with count := 0 } := rfl

theorem expandAll_lit (ks : List Code) {k : Code} (hk : k.toNat < 256) :
    expandAll (k :: ks) = firstRead.andThen (expandLoop ks [] 257 [litByte k]) := by
  have hne : k ≠ Config.eos := (ne_eos_iff k).2 (by omega)
  rw [expandAll, if_neg hne, if_neg (by omega), ExpandResult.andThen, firstRead]
  simp only [List.nil_append, Nat.add_comm 1, Bool.false_or]

theorem expandAll_eos (ks : List Code) :
    expandAll (Config.eos :: ks) = { firstRead with cause := .none } := by
  rw [expandAll, if_pos rfl, firstRead]

theorem expandAll_malformed (ks : List Code) {k : Code} (hk : 257 ≤ k.toNat) :
    expandAll (k :: ks) = { firstRead with cause := .malformed, info := k } := by
  have hne : k ≠ Config.eos := (ne_eos_iff k).2 (by omega)
  rw [expandAll, if_neg hne, if_pos (by omega), firstRead]

/-- The first code ends the run, or is malformed, or is that of a byte (R193 to R195). -/
theorem first_code_cases (k : Code) : k = Config.eos ∨ 257 ≤ k.toNat ∨ k.toNat < 256 := by
  by_cases hk : k = Config.eos
  · exact .inl hk
  · have hne := (ne_eos_iff k).1 hk
    omega

theorem of_cause_expandAll_cons {ks : List Code} {k : Code}
    (h : (expandAll (k :: ks)).cause = .truncated) : k.toNat < 256 := by
  rcases first_code_cases k with rfl | hbad | hlit
  · rw [expandAll_eos] at h
    cases h
  · rw [expandAll_malformed ks hbad] at h
    cases h
  · exact hlit

end Sys2Proof.Machine
end

section
/-! An expand run delivers EXPAND of its codes (43_expand R205): each round of the engine's loop, from
X_EMIT to X_ADV, is one round of the abstract loop on the codes left in the source. -/

namespace Sys2Proof.Machine

/-! ## The run and its source -/

/-- What an expand run over a finite source keeps past X_SEED: the table represents T. -/
structure State.ExpandRun (s : State) : Prop where
  inv : Inv s
  table : TableInv s
  finite : s.source.tail = .ends

/-- The codes from the read position on (R223). -/
def State.codesLeft (s : State) : List Code := s.source.codes.drop s.srcPos

theorem EngineMove.source_eq {s t : State} (hm : EngineMove s t) : t.source = s.source := by
  cases hm <;> simp

theorem State.ExpandRun.move {s t : State} (h : s.ExpandRun) (ht : engineStep s = .next t) :
    t.ExpandRun where
  inv := (engineStep_moves ht).inv h.inv
  table := (engineStep_moves ht).tableInv h.inv h.table
  finite := (engineStep_moves ht).source_eq ▸ h.finite

theorem State.ExpandRun.of_engineRun {s t : State} {m : Nat} (h : s.ExpandRun)
    (ht : engineRun m s = .next t) : t.ExpandRun :=
  engineRun_keeps (fun _ _ hs hst => hs.move hst) h ht

/-- A finite source gives its codes left, first one first (R226). -/
theorem State.ExpandRun.srcCode_eq {s : State} (h : s.ExpandRun) : s.srcCode = s.codesLeft.head? := by
  rw [State.codesLeft, List.head?_drop, State.srcCode, CodeSource.at?, h.finite]
  split
  · rfl
  · next hpos => rw [List.getElem?_eq_none (Nat.not_lt.1 hpos)]

/-- With `current` in CUR the table represents T, and its sequence is the chain of CUR (R141). -/
theorem State.ExpandRun.current {s : State} {q : Seq} (h : s.ExpandRun) (hp : s.phase.hasCurrent)
    (hq : s.table s.cur = some q) :
    s.TableSound ∧ 257 ≤ s.nextCode.toNat ∧ s.bound s.cur ∧ s.seqOf s.cur = q := by
  obtain ⟨-, hlow, hcur⟩ := h.inv.current hp
  have hsound : s.TableSound := h.table hp.mode_eq fun hx => by simp [hx, Phase.hasCurrent] at hp
  exact ⟨hsound, hlow, hcur, hsound.seqOf_eq hcur hq⟩

/-! ## Parts of a run -/

/-- The engine gets from `s` to `t`: it has counted the bytes and taken the codes of `r`, and SELFREF,
the bindings and NEXT_CODE are those of `r`. -/
structure State.Gains (s t : State) (r : ExpandResult) : Prop where
  reached : ∃ m, engineRun m s = .next t
  bytes : t.byteCount = s.byteCount + BitVec.ofNat 32 r.out.length
  count : t.codeCount = s.codeCount + BitVec.ofNat 32 r.count
  reads : t.reads = s.reads ++ s.codesLeft.take r.count
  selfref : t.selfref = (s.selfref || r.selfref)
  learned : t.assigns = r.learned
  next : t.nextCode.toNat = r.next

/-- A part of the run: `t` is a state of an expand run past X_SEED, and the bytes of `r` have been
delivered. -/
structure State.ExpandsTo (s t : State) (r : ExpandResult) : Prop extends State.Gains s t r where
  run : t.ExpandRun
  sink : t.sink = s.sink ++ r.out.map .byte
  left : t.codesLeft = s.codesLeft.drop r.count

/-- A part of the run that delivers the bytes `out`, takes `count` codes and binds nothing. -/
def State.expanding (s : State) (out : Seq) (count : Nat) : ExpandResult :=
  { out := out, cause := .truncated, info := 0, next := s.nextCode.toNat, count := count
    selfref := false, learned := s.assigns }

theorem exists_engineRun_trans {s t u : State} (h : ∃ m, engineRun m s = .next t)
    (h' : ∃ m, engineRun m t = .next u) : ∃ m, engineRun m s = .next u := by
  obtain ⟨m, hm⟩ := h
  obtain ⟨k, hk⟩ := h'
  exact ⟨m + k, (engineRun_add hm k).trans hk⟩

theorem State.Gains.trans {s t u : State} {r q : ExpandResult} (h : s.Gains t r)
    (hleft : t.codesLeft = s.codesLeft.drop r.count) (h' : t.Gains u q) :
    s.Gains u (r.andThen q) where
  reached := exists_engineRun_trans h.reached h'.reached
  bytes := by
    rw [h'.bytes, h.bytes, ExpandResult.andThen, List.length_append, BitVec.ofNat_add,
      BitVec.add_assoc]
  count := by rw [h'.count, h.count, ExpandResult.andThen, BitVec.ofNat_add, BitVec.add_assoc]
  reads := by
    rw [h'.reads, h.reads, hleft, ExpandResult.andThen, List.append_assoc, ← List.take_add]
  selfref := by rw [h'.selfref, h.selfref, ExpandResult.andThen, Bool.or_assoc]
  learned := h'.learned
  next := h'.next

theorem State.ExpandsTo.trans {s t u : State} {r q : ExpandResult} (h : s.ExpandsTo t r)
    (h' : t.ExpandsTo u q) : s.ExpandsTo u (r.andThen q) where
  toGains := h.toGains.trans h.left h'.toGains
  run := h'.run
  sink := by rw [h'.sink, h.sink, ExpandResult.andThen, List.map_append, List.append_assoc]
  left := by rw [h'.left, h.left, ExpandResult.andThen, List.drop_drop]

/-- A run of steps as a part; what they do not touch is filled in. -/
theorem State.ExpandRun.expandsTo {s t : State} {r : ExpandResult} {m : Nat} (h : s.ExpandRun)
    (ht : engineRun m s = .next t)
    (sink : t.sink = s.sink ++ r.out.map .byte := by simp [State.expanding])
    (bytes : t.byteCount = s.byteCount + BitVec.ofNat 32 r.out.length := by simp [State.expanding])
    (count : t.codeCount = s.codeCount + BitVec.ofNat 32 r.count := by simp [State.expanding])
    (reads : t.reads = s.reads ++ s.codesLeft.take r.count := by simp [State.expanding])
    (left : t.codesLeft = s.codesLeft.drop r.count := by simp [State.codesLeft, State.expanding])
    (selfref : t.selfref = (s.selfref || r.selfref) := by simp [State.expanding])
    (learned : t.assigns = r.learned := by simp [State.expanding])
    (next : t.nextCode.toNat = r.next := by simp [State.expanding]) : s.ExpandsTo t r :=
  { reached := ⟨m, ht⟩, run := h.of_engineRun ht
    sink, bytes, count, reads, left, selfref, learned, next }

/-! ## X_EMIT to X_READ -/

/-- The reconstruction delivers `current` (R196). -/
theorem State.ExpandRun.expandsTo_xRead {s : State} {q : Seq} (h : s.ExpandRun)
    (hp : s.phase = .xEmit) (hq : s.table s.cur = some q) :
    ∃ t, s.ExpandsTo t (s.expanding q 0) ∧ t.phase = .xRead ∧ t.table t.cur = some q := by
  obtain ⟨t, hrun, ht⟩ := reconstructEmitsCurrent s q h.inv h.table hp hq
  rw [ht] at hrun
  exact ⟨_, h.expandsTo hrun, rfl, hq⟩

/-! ## X_READ to X_ADV -/

theorem engineStep_xResolve_hit {s : State} (hp : s.phase = .xResolve) (hne : s.k ≠ Config.eos)
    (hlt : s.k.toNat < s.nextCode.toNat) :
    engineStep s = .next { s with nfirst := s.firstOf s.k, phase := .xGrow } := by
  rw [engineStep_xResolve hp, decodeNext_hit hne hlt, exec_cwNextHit hp rfl hne hlt]

theorem engineStep_xResolve_selfref {s : State} (hp : s.phase = .xResolve) (hne : s.k ≠ Config.eos)
    (heq : s.k.toNat = s.nextCode.toNat) : engineStep s =
      .next { s with nfirst := s.firstOf s.cur, selfref := true, phase := .xGrow } := by
  rw [engineStep_xResolve hp, decodeNext_selfref hne heq, exec_cwNextSelfref hp rfl hne heq]

theorem engineStep_xResolve_bad {s : State} (hp : s.phase = .xResolve) (hne : s.k ≠ Config.eos)
    (hgt : s.nextCode.toNat < s.k.toNat) : engineStep s = .next { s with
      sink := s.sink ++ [.abort], cause := .malformed, faultInfo := s.k, phase := .fault } := by
  rw [engineStep_xResolve hp, decodeNext_bad hne hgt, exec_cwNextBad hp rfl hne hgt]

/-- A code taken is the first of the codes left. -/
theorem codesLeft_takeCode {s : State} {k : Code} {ks : List Code} (hk : s.codesLeft = k :: ks) :
    (s.takeCode k).codesLeft = ks := by
  have hdrop : (s.takeCode k).codesLeft = s.codesLeft.drop 1 := List.drop_drop.symm
  rw [hdrop, hk, List.drop_one, List.tail_cons]

/-- X_READ takes a code that does not end the run (R197). -/
theorem State.ExpandRun.expandsTo_xResolve {s : State} {k : Code} {ks : List Code} (h : s.ExpandRun)
    (hp : s.phase = .xRead) (hk : s.codesLeft = k :: ks) (hne : k ≠ Config.eos) :
    s.ExpandsTo { s.takeCode k with phase := .xResolve } (s.expanding [] 1) := by
  have hstep := engineStep_xRead hp (by rw [h.srcCode_eq, hk, List.head?_cons]) hne
  refine h.expandsTo (engineRun_succ hstep 0) (reads := ?reads) (left := ?left)
  case reads => rw [hk]; rfl
  case left => rw [hk]; exact codesLeft_takeCode hk

/-- X_RESOLVE finds the first byte of the sequence the code stands for (R199, R200). -/
theorem State.ExpandRun.expandsTo_xGrow {s : State} {q : Seq} (h : s.ExpandRun)
    (hp : s.phase = .xResolve) (hq : s.table s.cur = some q) (hle : s.k.toNat ≤ s.nextCode.toNat) :
    ∃ t, s.ExpandsTo t
        { s.expanding [] 0 with selfref := decide (s.k.toNat = s.nextCode.toNat) } ∧
      t.phase = .xGrow ∧ t.k = s.k ∧ t.table t.cur = some q ∧
      [t.nfirst] = (nextSeq s.assigns s.nextCode.toNat q s.k).take 1 := by
  have hne := h.inv.expand.resolving hp
  obtain ⟨hsound, hlow, hcur, -⟩ := h.current (by simp [hp, Phase.hasCurrent]) hq
  rcases Nat.lt_or_eq_of_le hle with hlt | heq
  · obtain ⟨htable, hfirst, -⟩ := hsound s.k ⟨hne, hlt⟩
    rw [table_eq_tableLookup hlow] at htable
    refine ⟨_, h.expandsTo (engineRun_succ (engineStep_xResolve_hit hp hne hlt) 0)
      (selfref := ?selfref), rfl, rfl, hq, ?first⟩
    case selfref => simp [Nat.ne_of_lt hlt]
    case first =>
      rw [nextSeq, if_pos hlt, htable, Option.getD_some, List.take_one, hfirst]
      rfl
  · obtain ⟨htable, hfirst, -⟩ := hsound s.cur hcur
    rw [Option.some_inj.1 (htable.symm.trans hq)] at hfirst
    refine ⟨_, h.expandsTo (engineRun_succ (engineStep_xResolve_selfref hp hne heq) 0)
      (selfref := ?selfref), rfl, rfl, hq, ?first⟩
    case selfref => simp [heq]
    case first =>
      rw [nextSeq, if_neg (Nat.not_lt.2 (Nat.le_of_eq heq.symm)), List.take_one, List.head?_append,
        hfirst]
      rfl

/-- X_GROW binds what the round binds (R202). -/
theorem State.ExpandRun.expandsTo_xAdv {s : State} {q : Seq} (h : s.ExpandRun)
    (hp : s.phase = .xGrow) (hq : s.table s.cur = some q) :
    ∃ t, s.ExpandsTo t { s.expanding [] 0 with
        learned := (bindNext s.assigns s.nextCode.toNat (q ++ [s.nfirst])).1
        next := (bindNext s.assigns s.nextCode.toNat (q ++ [s.nfirst])).2 } ∧
      t.phase = .xAdv ∧ t.k = s.k := by
  obtain ⟨-, -, -, rfl⟩ := h.current (by simp [hp, Phase.hasCurrent]) hq
  by_cases hc : s.nextCode.toNat < 4096
  · have hcode : BitVec.ofNat 12 s.nextCode.toNat = codeOfCounter s.nextCode :=
      BitVec.ofNat_toNat 12 s.nextCode
    rw [bindNext_of_lt _ _ hc, hcode]
    exact ⟨_, h.expandsTo (engineRun_succ (engineStep_xGrow_append hp hc) 0)
      (next := counter_succ hc), rfl, rfl⟩
  · rw [bindNext_of_not_lt _ _ hc]
    exact ⟨_, h.expandsTo (engineRun_succ (engineStep_xGrow_skip hp hc) 0), rfl, rfl⟩

/-! ## A round -/

/-- A code at most NEXT_CODE is bound, or it is the one the growth binds next (R206). -/
theorem State.ExpandRun.tableLookup_round {s : State} {q : Seq} {k : Code} (h : s.ExpandRun)
    (hp : s.phase.hasCurrent) (hq : s.table s.cur = some q) (hne : k ≠ Config.eos)
    (hle : k.toNat ≤ s.nextCode.toNat) :
    tableLookup (expandRound s.assigns s.nextCode.toNat q k).learned k =
      some (nextSeq s.assigns s.nextCode.toNat q k) := by
  obtain ⟨hsound, hlow, -⟩ := h.current hp hq
  refine tableLookup_expandRound q hlow hle (fun hlt => ?bound) fun heq => ?new
  case bound =>
    obtain ⟨htable, -⟩ := hsound k ⟨hne, hlt⟩
    rw [← table_eq_tableLookup hlow, htable, Option.isSome_some]
  case new =>
    have hc : s.nextCode.toNat < 4096 := heq ▸ k.isLt
    have hcode : k = codeOfCounter s.nextCode :=
      BitVec.eq_of_toNat_eq (heq.trans (codeOfCounter_toNat hc).symm)
    exact hcode ▸ tableLookup_nextCode h.inv.reg hlow hc

/-- One round of the engine is one round of the loop, for a code that does not end the run. -/
theorem State.ExpandRun.expandsTo_round {s : State} {q : Seq} {k : Code} {ks : List Code}
    (h : s.ExpandRun) (hp : s.phase = .xEmit) (hq : s.table s.cur = some q)
    (hk : s.codesLeft = k :: ks) (hne : k ≠ Config.eos) (hle : k.toNat ≤ s.nextCode.toNat) :
    ∃ t, s.ExpandsTo t (expandRound s.assigns s.nextCode.toNat q k) ∧ t.phase = .xAdv ∧
      t.table t.k = some (nextSeq s.assigns s.nextCode.toNat q k) := by
  obtain ⟨a, hemit, hread, hqa⟩ := h.expandsTo_xRead hp hq
  have hka : a.codesLeft = k :: ks := hemit.left.trans hk
  have ha : a.assigns = s.assigns := hemit.learned
  have hna : a.nextCode.toNat = s.nextCode.toNat := hemit.next
  have htake := hemit.run.expandsTo_xResolve hread hka hne
  obtain ⟨c, hres, hgrow, hkc, hqc, hfirst⟩ := htake.run.expandsTo_xGrow rfl hqa (hna ▸ hle)
  obtain ⟨d, hbind, hadv, hkd⟩ := hres.run.expandsTo_xAdv hgrow hqc
  have hac : c.assigns = s.assigns := hres.learned.trans ha
  have hnc : c.nextCode.toNat = s.nextCode.toNat := hres.next.trans hna
  have hparts := ((hemit.trans htake).trans hres).trans hbind
  have hround : s.ExpandsTo d (expandRound s.assigns s.nextCode.toNat q k) := by
    simpa [ExpandResult.andThen, State.expanding, expandRound, ha, hna, hac, hnc, hfirst] using hparts
  refine ⟨d, hround, hadv, ?_⟩
  have hmode : d.phase.mode = .expanding := by rw [hadv]; rfl
  obtain ⟨-, hlow⟩ := hround.run.inv.entries hmode (by simp [hadv])
  rw [table_eq_tableLookup hlow, hround.learned, hkd.trans hkc]
  exact h.tableLookup_round (.inl hp) hq hne hle

/-- X_ADV makes `next` the current sequence (R203). -/
theorem State.ExpandsTo.xEmit {s t : State} {r : ExpandResult} (h : s.ExpandsTo t r)
    (hp : t.phase = .xAdv) :
    ∃ u, s.ExpandsTo u r ∧ u.phase = .xEmit ∧ u.table u.cur = t.table t.k := by
  have hadv := engineStep_xAdv hp
  have hreach := exists_engineRun_trans h.reached ⟨1, engineRun_succ hadv 0⟩
  exact ⟨_, { h with reached := hreach, run := h.run.move hadv }, rfl, rfl⟩

/-! ## The end of a run -/

/-- The end of a run: `t` is in DONE or FAULT as `r` says, and the bytes of `r` and Close or Abort have
been delivered (R205). -/
structure State.EndsAs (s t : State) (r : ExpandResult) : Prop extends State.Gains s t r where
  phase : t.phase = if r.cause = .none then .done else .fault
  sink : t.sink = s.sink ++ r.out.map .byte ++ [if r.cause = .none then .close else .abort]
  cause : t.cause = r.cause
  info : t.faultInfo = r.info

theorem State.ExpandsTo.endsAs {s t u : State} {r q : ExpandResult} (h : s.ExpandsTo t r)
    (h' : t.EndsAs u q) : s.EndsAs u (r.andThen q) where
  toGains := h.toGains.trans h.left h'.toGains
  phase := h'.phase
  sink := by
    rw [h'.sink, h.sink, ExpandResult.andThen, List.map_append, ← List.append_assoc s.sink]
  cause := h'.cause
  info := h'.info

/-- What comes of a run that ends with `cause` and `info` after `count` more codes, and binds nothing. -/
def State.ending (s : State) (out : Seq) (cause : Cause) (info : Code) (count : Nat) : ExpandResult :=
  { s.expanding out count with cause := cause, info := info }

/-- The end of a run after a part that only delivers bytes. -/
theorem State.ExpandsTo.endsAs_ending {s t u : State} {out : Seq} {cause : Cause} {info : Code}
    {count : Nat} (h : s.ExpandsTo t (s.expanding out 0))
    (h' : t.EndsAs u (t.ending [] cause info count)) : s.EndsAs u (s.ending out cause info count) := by
  have ha : t.assigns = s.assigns := h.learned
  have hn : t.nextCode.toNat = s.nextCode.toNat := h.next
  simpa [ExpandResult.andThen, State.ending, State.expanding, ha, hn] using h.endsAs h'

/-- The end of a run, from the steps that lead to it; what they do not touch is filled in. -/
theorem endsAs_of_engineRun {s t : State} {cause : Cause} {info : Code} {count m : Nat}
    (ht : engineRun m s = .next t)
    (phase : t.phase = if cause = .none then .done else .fault)
    (sink : t.sink = s.sink ++ [if cause = .none then .close else .abort])
    (hcause : t.cause = cause) (hinfo : t.faultInfo = info)
    (hcount : t.codeCount = s.codeCount + BitVec.ofNat 32 count := by simp)
    (reads : t.reads = s.reads ++ s.codesLeft.take count := by simp)
    (bytes : t.byteCount = s.byteCount := by simp)
    (selfref : t.selfref = s.selfref := by simp) (learned : t.assigns = s.assigns := by simp)
    (next : t.nextCode = s.nextCode := by simp) : s.EndsAs t (s.ending [] cause info count) :=
  { reached := ⟨m, ht⟩, phase, reads, learned, cause := hcause, info := hinfo, count := hcount
    sink := sink.trans (by rw [State.ending, State.expanding, List.map_nil, List.append_nil])
    bytes := bytes.trans (BitVec.add_zero _).symm
    selfref := selfref.trans (Bool.or_false _).symm
    next := congrArg BitVec.toNat next }

/-- At the end of the data the run ends with TRUNCATED (R255). -/
theorem State.ExpandRun.endsAs_truncated {s : State} (h : s.ExpandRun)
    (hp : s.phase = .xFirst ∨ s.phase = .xRead) (hk : s.codesLeft = []) :
    ∃ t, s.EndsAs t (s.ending [] .truncated 0 0) :=
  have hstep := engineStep_truncated hp (by rw [h.srcCode_eq, hk, List.head?_nil])
  ⟨_, endsAs_of_engineRun (engineRun_succ hstep 0) rfl rfl rfl rfl⟩

theorem engineStep_eos {s : State} (hp : s.phase = .xFirst ∨ s.phase = .xRead)
    (hk : s.srcCode = some Config.eos) :
    engineStep s = .next { s.takeCode Config.eos with phase := .xClose } := by
  rcases hp with hp | hp
  · exact (engineStep_xFirst hp hk).trans (exec_cwFirstEos hp rfl)
  · exact (engineStep_xRead_eos hp hk).trans (exec_cwNextEos (.inl hp) rfl)

/-- While a run is in progress no fault is recorded (R35, R259). -/
theorem RegInv.clear_of_busy {s : State} (h : RegInv s) (hb : s.busy = true) :
    s.cause = .none ∧ s.faultInfo = 0 := by
  have hcause : s.cause = .none := by
    by_contra hne
    have hmode := (busy_iff s).1 hb
    rw [h.cause_iff.1 hne] at hmode
    simp [Phase.mode] at hmode
  exact ⟨hcause, h.faultInfo_zero.resolve_right (by simp [hcause])⟩

/-- EOS ends the run in DONE, after Close (R193, R198, R204). -/
theorem State.ExpandRun.endsAs_eos {s : State} {ks : List Code} (h : s.ExpandRun)
    (hp : s.phase = .xFirst ∨ s.phase = .xRead) (hk : s.codesLeft = Config.eos :: ks) :
    ∃ t, s.EndsAs t (s.ending [] .none 0 1) := by
  have hmode : s.phase.mode = .expanding := by rcases hp with hp | hp <;> rw [hp] <;> rfl
  obtain ⟨hcause, hinfo⟩ := h.inv.reg.clear_of_busy (busy_of_expanding hmode)
  have hstep := engineStep_eos hp (by rw [h.srcCode_eq, hk, List.head?_cons])
  exact ⟨_, endsAs_of_engineRun
    ((engineRun_succ hstep 1).trans (engineRun_succ (engineStep_close (.inr rfl)) 0))
    rfl rfl hcause hinfo (reads := by simp [hk])⟩

/-- A first code of 257 or more ends the run with MALFORMED (R195). -/
theorem State.ExpandRun.endsAs_firstBad {s : State} {k : Code} {ks : List Code} (h : s.ExpandRun)
    (hp : s.phase = .xFirst) (hk : s.codesLeft = k :: ks) (hbad : 257 ≤ k.toNat) :
    ∃ t, s.EndsAs t (s.ending [] .malformed k 1) := by
  have hstep := engineStep_xFirst hp (by rw [h.srcCode_eq, hk, List.head?_cons])
  rw [decodeFirst_bad hbad, exec_cwFirstBad (s := s.takeCode k) (k := k) hp rfl hbad] at hstep
  exact ⟨_, endsAs_of_engineRun (engineRun_succ hstep 0) rfl rfl rfl rfl (reads := by simp [hk])⟩

/-- A later code above NEXT_CODE ends the run with MALFORMED (R201). -/
theorem State.ExpandRun.endsAs_nextBad {s : State} {k : Code} {ks : List Code} (h : s.ExpandRun)
    (hp : s.phase = .xRead) (hk : s.codesLeft = k :: ks) (hne : k ≠ Config.eos)
    (hgt : s.nextCode.toNat < k.toNat) : ∃ t, s.EndsAs t (s.ending [] .malformed k 1) := by
  have hstep := engineStep_xRead hp (by rw [h.srcCode_eq, hk, List.head?_cons]) hne
  have hbad := engineStep_xResolve_bad (s := { s.takeCode k with phase := .xResolve }) rfl hne hgt
  exact ⟨_, endsAs_of_engineRun ((engineRun_succ hstep 1).trans (engineRun_succ hbad 0))
    rfl rfl rfl rfl (reads := by simp [hk])⟩

/-! ## The rounds of the run -/

/-- From X_EMIT on the engine delivers what the loop makes of the codes left (R205). -/
theorem State.ExpandRun.endsAs_loop {s : State} {q : Seq} {ks : List Code} (h : s.ExpandRun)
    (hp : s.phase = .xEmit) (hq : s.table s.cur = some q) (hk : s.codesLeft = ks) :
    ∃ t, s.EndsAs t (expandLoop ks s.assigns s.nextCode.toNat q) := by
  induction ks generalizing s q with
  | nil =>
    obtain ⟨a, hemit, hread, -⟩ := h.expandsTo_xRead hp hq
    obtain ⟨t, ht⟩ := hemit.run.endsAs_truncated (.inr hread) (hemit.left.trans hk)
    exact ⟨t, hemit.endsAs_ending ht⟩
  | cons k ks ih =>
    obtain ⟨a, hemit, hread, -⟩ := h.expandsTo_xRead hp hq
    have hka : a.codesLeft = k :: ks := hemit.left.trans hk
    by_cases hne : k = Config.eos
    · subst hne
      rw [expandLoop_eos]
      obtain ⟨t, ht⟩ := hemit.run.endsAs_eos (.inr hread) hka
      exact ⟨t, hemit.endsAs_ending ht⟩
    by_cases hle : k.toNat ≤ s.nextCode.toNat
    · obtain ⟨d, hround, hadv, hqd⟩ := h.expandsTo_round hp hq hk hne hle
      obtain ⟨u, hnext, hpu, hqu⟩ := hround.xEmit hadv
      obtain ⟨t, ht⟩ := ih hnext.run hpu (hqu.trans hqd) (by rw [hnext.left, hk]; rfl)
      rw [hnext.learned, hnext.next] at ht
      exact ⟨t, expandLoop_cons ks s.assigns q hne hle ▸ hnext.endsAs ht⟩
    · have hna : a.nextCode.toNat = s.nextCode.toNat := hemit.next
      rw [expandLoop_malformed ks s.assigns q hne (Nat.not_le.1 hle)]
      obtain ⟨t, ht⟩ := hemit.run.endsAs_nextBad hread hka hne (hna ▸ Nat.not_le.1 hle)
      exact ⟨t, hemit.endsAs_ending ht⟩

/-- The engine gets from `s` to the phase `p` at `t` having taken the codes `ks`, with the bindings and
NEXT_CODE of `r` (R210). -/
structure State.ReachesPoint (s t : State) (p : Phase) (ks : List Code) (r : ExpandResult) : Prop where
  reached : ∃ m, engineRun m s = .next t
  phase : t.phase = p
  reads : t.reads = s.reads ++ ks
  learned : t.assigns = r.learned
  next : t.nextCode.toNat = r.next

/-- The end of a part of the run, as a point of it. -/
theorem State.ExpandsTo.point {s t : State} {p : Phase} {ks : List Code} {r q : ExpandResult}
    (h : s.ExpandsTo t r) (hp : t.phase = p) (hks : s.codesLeft.take r.count = ks)
    (hl : r.learned = q.learned) (hn : r.next = q.next) : s.ReachesPoint t p ks q :=
  ⟨h.reached, hp, hks ▸ h.reads, h.learned.trans hl, h.next.trans hn⟩

/-- A point reached after a part of the run. -/
theorem State.ExpandsTo.reachesPoint {s t u : State} {p : Phase} {ks : List Code}
    {r q : ExpandResult} (h : s.ExpandsTo t r) (h' : t.ReachesPoint u p ks q) :
    s.ReachesPoint u p (s.codesLeft.take r.count ++ ks) (r.andThen q) where
  reached := exists_engineRun_trans h.reached h'.reached
  phase := h'.phase
  reads := by rw [h'.reads, h.reads, List.append_assoc]
  learned := h'.learned
  next := h'.next

/-- Right after `n + 1` more codes that do not end the run, the engine has the bindings of the loop on
these (R210). -/
theorem State.ExpandRun.reachesPoint {s : State} {q : Seq} {ks : List Code} {n : Nat}
    (h : s.ExpandRun) (hp : s.phase = .xEmit) (hq : s.table s.cur = some q) (hk : s.codesLeft = ks)
    (hn : n < ks.length)
    (hcause : (expandLoop (ks.take (n + 1)) s.assigns s.nextCode.toNat q).cause = .truncated) :
    ∃ t, s.ReachesPoint t .xAdv (ks.take (n + 1))
      (expandLoop (ks.take (n + 1)) s.assigns s.nextCode.toNat q) := by
  induction ks generalizing s q n with
  | nil => exact absurd hn (Nat.not_lt_zero n)
  | cons k ks ih =>
    rw [List.take_succ_cons] at hcause ⊢
    obtain ⟨hne, hle⟩ := of_cause_expandLoop_cons hcause
    rw [expandLoop_cons _ _ _ hne hle] at hcause ⊢
    obtain ⟨d, hround, hadv, hqd⟩ := h.expandsTo_round hp hq hk hne hle
    cases n with
    | zero => exact ⟨d, hround.point hadv (by rw [hk]; rfl) rfl rfl⟩
    | succ n =>
      obtain ⟨u, hnext, hpu, hqu⟩ := hround.xEmit hadv
      rw [← hnext.learned, ← hnext.next] at hcause ⊢
      obtain ⟨t, ht⟩ := ih hnext.run hpu (hqu.trans hqd) (by rw [hnext.left, hk]; rfl)
        (Nat.lt_of_succ_lt_succ hn) hcause
      have hpoint := hnext.reachesPoint ht
      rw [hk] at hpoint
      exact ⟨t, hpoint⟩

/-! ## The first code -/

/-- A byte's code becomes `current` (R194). -/
theorem State.ExpandRun.expandsTo_xEmit {s : State} {k : Code} {ks : List Code} (h : s.ExpandRun)
    (hp : s.phase = .xFirst) (hk : s.codesLeft = k :: ks) (hlit : k.toNat < 256) :
    ∃ t, s.ExpandsTo t (s.expanding [] 1) ∧ t.phase = .xEmit ∧ t.table t.cur = some [litByte k] := by
  have hbyte : byteCode (k.setWidth 8) = k := byteCode_setWidth hlit
  have hstep := engineStep_xFirst hp (by rw [h.srcCode_eq, hk, List.head?_cons])
  rw [decodeFirst_of_lt hlit, exec_cwFirstLit (s := s.takeCode k) hp hbyte.symm, hbyte] at hstep
  have hmode : s.phase.mode = .expanding := by rw [hp]; rfl
  obtain ⟨-, hlow⟩ := h.inv.entries hmode (by simp [hp])
  refine ⟨_, h.expandsTo (engineRun_succ hstep 0) (reads := ?reads) (left := ?left), rfl, ?table⟩
  case reads => rw [hk]; rfl
  case left => rw [hk]; exact codesLeft_takeCode hk
  case table => exact (table_eq_tableLookup hlow k).trans (tableLookup_of_lt _ hlit)

/-- The start of a run: X_FIRST with nothing learned (R191). -/
structure State.Seeded (s : State) : Prop where
  run : s.ExpandRun
  phase : s.phase = .xFirst
  learned : s.assigns = []
  next : s.nextCode.toNat = 257

/-- What X_FIRST reads of the codes left, it reads of the first code of EXPAND. -/
theorem State.Seeded.expanding_eq {s : State} (h : s.Seeded) : s.expanding [] 1 = firstRead := by
  rw [State.expanding, h.learned, h.next, firstRead]

/-- A first code that is a byte's starts the loop with that byte (R194, R205). -/
theorem State.Seeded.expandsTo_xEmit {s : State} {k : Code} {ks : List Code} (h : s.Seeded)
    (hk : s.codesLeft = k :: ks) (hlit : k.toNat < 256) :
    ∃ t, s.ExpandsTo t firstRead ∧ t.phase = .xEmit ∧ t.table t.cur = some [litByte k] ∧
      t.codesLeft = ks := by
  obtain ⟨t, hfirst, hp, hq⟩ := h.run.expandsTo_xEmit h.phase hk hlit
  exact ⟨t, h.expanding_eq ▸ hfirst, hp, hq, by rw [hfirst.left, hk]; rfl⟩

/-- From X_FIRST on the engine delivers EXPAND of the codes left (R205). -/
theorem State.Seeded.endsAs_expandAll {s : State} {cs : List Code} (h : s.Seeded)
    (hk : s.codesLeft = cs) : ∃ t, s.EndsAs t (expandAll cs) := by
  have hending : ∀ cause info count,
      s.ending [] cause info count = { firstRead with cause := cause, info := info, count := count } :=
    fun _ _ _ => by rw [State.ending, State.expanding, h.learned, h.next, firstRead]
  cases cs with
  | nil =>
    rw [expandAll_nil]
    exact hending .truncated 0 0 ▸ h.run.endsAs_truncated (.inl h.phase) hk
  | cons k ks =>
    rcases first_code_cases k with rfl | hbad | hlit
    · rw [expandAll_eos]
      exact hending .none 0 1 ▸ h.run.endsAs_eos (.inl h.phase) hk
    · rw [expandAll_malformed ks hbad]
      exact hending .malformed k 1 ▸ h.run.endsAs_firstBad h.phase hk hbad
    · obtain ⟨u, hfirst, hpu, hqu, hku⟩ := h.expandsTo_xEmit hk hlit
      obtain ⟨t, ht⟩ := hfirst.run.endsAs_loop hpu hqu hku
      rw [hfirst.learned, hfirst.next] at ht
      exact ⟨t, expandAll_lit ks hlit ▸ hfirst.endsAs ht⟩

/-- Right after code `n + 1`, which neither ends the run nor is malformed, the engine has the bindings of
the decoder (R210). -/
theorem State.Seeded.reachesPoint {s : State} {cs : List Code} {n : Nat} (h : s.Seeded)
    (hk : s.codesLeft = cs) (hn : n < cs.length)
    (hcause : (decoderAt cs (n + 1)).cause = .truncated) :
    ∃ t, s.ReachesPoint t (if n + 1 = 1 then .xEmit else .xAdv) (cs.take (n + 1))
      (decoderAt cs (n + 1)) := by
  rw [decoderAt] at hcause ⊢
  cases cs with
  | nil => exact absurd hn (Nat.not_lt_zero n)
  | cons k ks =>
    rw [List.take_succ_cons] at hcause ⊢
    have hlit := of_cause_expandAll_cons hcause
    obtain ⟨u, hfirst, hpu, hqu, hku⟩ := h.expandsTo_xEmit hk hlit
    rw [expandAll_lit _ hlit] at hcause ⊢
    cases n with
    | zero => exact ⟨u, hfirst.point hpu (by rw [hk]; rfl) rfl rfl⟩
    | succ n =>
      have hu : u.assigns = [] := hfirst.learned
      have hnu : u.nextCode.toNat = 257 := hfirst.next
      obtain ⟨t, ht⟩ := hfirst.run.reachesPoint hpu hqu hku (Nat.lt_of_succ_lt_succ hn)
        (by rw [hu, hnu]; exact hcause)
      rw [hu, hnu] at ht
      have hpoint := hfirst.reachesPoint ht
      rw [hk] at hpoint
      exact ⟨t, hpoint⟩

/-! ## The whole run -/

/-- While NEXT_CODE is 0 nothing is bound (R43). -/
theorem RegInv.assigns_eq_nil {s : State} (h : RegInv s) (hn : s.nextCode = 0) : s.assigns = [] := by
  have hcodes := h.assigns_codes
  rw [hn] at hcodes
  exact List.map_eq_nil_iff.1 hcodes

/-- X_SEED starts the run, with the registers still as the command left them (R191, R286). -/
theorem expandsTo_seeded {s : State} (h : Inv s) (hp : s.phase = .xSeed)
    (hs : s.source.tail = .ends) : ∃ t, s.ExpandsTo t (t.expanding [] 0) ∧ t.Seeded := by
  obtain ⟨hzero, hcount, hbytes, -⟩ := h.reg.seed_entry (.inr hp)
  have hstep := engineStep_xSeed hp
  have hm := engineStep_moves hstep
  have hrun : State.ExpandRun { s.tabSeed with
      nextCode := Config.firstFree, codeCount := 0, byteCount := 0, phase := .xFirst } :=
    ⟨hm.inv h, hm.tableInv h fun _ hne => absurd hp hne, hs⟩
  refine ⟨_, {
    reached := ⟨1, engineRun_succ hstep 0⟩, run := hrun, left := rfl, learned := rfl, next := rfl
    sink := ?sink, bytes := ?bytes, count := ?count, reads := ?reads, selfref := ?selfref },
    ⟨hrun, rfl, RegInv.assigns_eq_nil (s := s) h.reg hzero, rfl⟩⟩
  case sink => exact (List.append_nil _).symm
  case bytes => simp [hbytes, State.expanding]
  case count => simp [hcount, State.expanding]
  case reads => exact (List.append_nil _).symm
  case selfref => exact (Bool.or_false _).symm

/-- Settles O47: X_SEED starts the run, X_FIRST reads the first code, the rounds of the engine are those
of the loop, and each end of the run is one of the loop's. -/
theorem expandRunDelivers : Obligations.ExpandRunDelivers := by
  rintro s r h hp hs hpos rfl
  obtain ⟨-, hcount, hbytes, hself⟩ := h.reg.seed_entry (.inr hp)
  obtain ⟨a, hseed, hstart⟩ := expandsTo_seeded h hp hs
  have hall : s.codesLeft = s.source.codes := by rw [State.codesLeft, hpos, List.drop_zero]
  have hka : a.codesLeft = s.source.codes := hseed.left.trans hall
  refine ⟨?whole, fun n hn hlen hcause => ?point⟩
  case whole =>
    obtain ⟨t, ht⟩ := hstart.endsAs_expandAll hka
    have hend := hseed.endsAs ht
    have hparts : (a.expanding [] 0).andThen (expandAll s.source.codes) = expandAll s.source.codes := by
      simp [ExpandResult.andThen, State.expanding]
    rw [hparts] at hend
    obtain ⟨m, hm⟩ := hend.reached
    refine ⟨m, t, hm, hend.phase, hend.sink, hend.cause, hend.info, hend.next, ?count, ?bytes, ?selfref,
      hend.learned, hall ▸ hend.reads⟩
    case count => rw [hend.count, hcount]; exact BitVec.zero_add _
    case bytes => rw [hend.bytes, hbytes]; exact BitVec.zero_add _
    case selfref => rw [hend.selfref, hself]; exact Bool.false_or _
  case point =>
    obtain ⟨n, rfl⟩ := Nat.exists_eq_add_of_le' hn
    obtain ⟨t, ht⟩ := hstart.reachesPoint hka hlen hcause
    have hpoint := hseed.reachesPoint ht
    obtain ⟨m, hm⟩ := hpoint.reached
    exact ⟨m, t, hm, hpoint.phase, hpoint.reads, hpoint.next, hpoint.learned⟩

end Sys2Proof.Machine
end

section
/-! The wire (44_host_interface R227, R228): words as bits, a stream of bits cut into words, and that
Unpack undoes Pack. -/

namespace Sys2Proof.Machine

/-! ## Words as bits -/

@[simp] theorem length_msbBits {w : Nat} (v : BitVec w) : (msbBits v).length = w := by
  simp [msbBits]

theorem ofMsbBits_append_singleton (bs : List Bool) (b : Bool) :
    ofMsbBits (bs ++ [b]) = 2 * ofMsbBits bs + b.toNat := by
  simp [ofMsbBits]

/-- Bit `i` of the number is bit `i` of the list, counted from its end. -/
theorem testBit_ofMsbBits {bs : List Bool} {i : Nat} (hi : i < bs.length) :
    (ofMsbBits bs).testBit i = bs[bs.length - 1 - i] := by
  induction bs using List.reverseRecOn generalizing i with
  | nil => exact absurd hi (Nat.not_lt_zero i)
  | append_singleton bs b ih =>
    rw [ofMsbBits_append_singleton]
    cases i with
    | zero => cases b <;> simp
    | succ i =>
      have hlt : i < bs.length := by simpa using hi
      have hdiv : (2 * ofMsbBits bs + b.toNat) / 2 = ofMsbBits bs := by cases b <;> simp; omega
      rw [Nat.testBit_succ, hdiv, ih hlt, List.getElem_append_left (by simp; omega)]
      congr 1
      simp
      omega

/-- The bits of a number of `w` bits are those it was put together from. -/
theorem msbBits_ofMsbBits {w : Nat} {bs : List Bool} (h : bs.length = w) :
    msbBits (BitVec.ofNat w (ofMsbBits bs)) = bs := by
  subst h
  refine List.ext_getElem (by simp) fun i _ hi => ?_
  have hlow : bs.length - 1 - i < bs.length := by omega
  simp only [msbBits, List.getElem_map, List.getElem_range, BitVec.getMsbD, BitVec.getLsbD_ofNat,
    hi, hlow, decide_true, Bool.true_and, testBit_ofMsbBits hlow]
  congr 1
  omega

/-- A word is put together again from its bits. -/
theorem ofMsbBits_msbBits {w : Nat} (v : BitVec w) : BitVec.ofNat w (ofMsbBits (msbBits v)) = v := by
  have hbits : msbBits (BitVec.ofNat w (ofMsbBits (msbBits v))) = msbBits v :=
    msbBits_ofMsbBits (length_msbBits v)
  refine BitVec.eq_of_getMsbD_eq fun i hi => ?_
  exact List.map_inj_left.1 hbits i (List.mem_range.2 hi)

/-! ## Streams -/

@[simp] theorem streamBits_nil {w : Nat} : streamBits ([] : List (BitVec w)) = [] := rfl

@[simp] theorem streamBits_cons {w : Nat} (v : BitVec w) (vs : List (BitVec w)) :
    streamBits (v :: vs) = msbBits v ++ streamBits vs := rfl

@[simp] theorem length_streamBits {w : Nat} (vs : List (BitVec w)) :
    (streamBits vs).length = w * vs.length := by
  induction vs with
  | nil => rfl
  | cons v vs ih =>
    rw [streamBits_cons, List.length_append, length_msbBits, ih, List.length_cons, Nat.mul_succ,
      Nat.add_comm]

/-- A stream of `m` whole words is the bits of `m` words. -/
theorem exists_streamBits {w m : Nat} {bs : List Bool} (h : bs.length = w * m) :
    ∃ vs : List (BitVec w), vs.length = m ∧ streamBits vs = bs := by
  induction m generalizing bs with
  | zero => exact ⟨[], rfl, (List.eq_nil_of_length_eq_zero h).symm⟩
  | succ m ih =>
    rw [Nat.mul_succ] at h
    obtain ⟨vs, hlen, hbits⟩ := ih (bs := bs.drop w) (by rw [List.length_drop, h, Nat.add_sub_cancel])
    refine ⟨BitVec.ofNat w (ofMsbBits (bs.take w)) :: vs, by rw [List.length_cons, hlen], ?_⟩
    rw [streamBits_cons, hbits, msbBits_ofMsbBits (by rw [List.length_take]; omega),
      List.take_append_drop]

/-- Cut into words, the bits of words are these words; fewer bits than a word are dropped. -/
theorem bitGroups_streamBits {w fuel : Nat} (vs : List (BitVec w)) {rest : List Bool}
    (hrest : rest.length < w) (hfuel : vs.length ≤ fuel) :
    (bitGroups w fuel (streamBits vs ++ rest)).map (BitVec.ofNat w) = vs := by
  induction vs generalizing fuel with
  | nil =>
    cases fuel with
    | zero => rfl
    | succ fuel => rw [streamBits_nil, List.nil_append, bitGroups, if_pos hrest, List.map_nil]
  | cons v vs ih =>
    obtain ⟨fuel, rfl⟩ := Nat.exists_eq_add_of_le' (Nat.le_trans (Nat.succ_pos _) hfuel)
    have hlen := length_msbBits v
    have hlong : ¬ (msbBits v ++ (streamBits vs ++ rest)).length < w := by
      rw [List.length_append, hlen]
      omega
    rw [streamBits_cons, List.append_assoc, bitGroups, if_neg hlong, List.take_left' hlen,
      List.drop_left' hlen, List.map_cons, ofMsbBits_msbBits, ih (Nat.le_of_succ_le_succ hfuel)]

/-! ## Pack and Unpack -/

/-- Unpack gives the codes whose bits stand at the start of the stream (R227). -/
theorem unpack_eq {bytes : List Byte} {cs : List Code} {rest : List Bool}
    (h : streamBits bytes = streamBits cs ++ rest) (hrest : rest.length < 12) : unpack bytes = cs := by
  have hlen := congrArg List.length h
  rw [List.length_append, length_streamBits, length_streamBits] at hlen
  rw [unpack, h]
  exact bitGroups_streamBits cs hrest (by omega)

/-- The bits of Pack are those of the codes and the zeros that fill the last byte (R228). -/
theorem streamBits_pack (cs : List Code) :
    streamBits (pack cs) = streamBits cs ++ padBits (12 * cs.length) := by
  have hlen : (streamBits cs ++ padBits (12 * cs.length)).length =
      8 * ((12 * cs.length + 7) / 8) := by
    rw [List.length_append, length_streamBits, padBits, List.length_replicate]
    omega
  obtain ⟨bytes, hcount, hbits⟩ := exists_streamBits hlen
  have hpack : pack cs = bytes := by
    have hgroups := bitGroups_streamBits bytes (fuel := (streamBits bytes).length) (rest := [])
      (by decide) (by rw [length_streamBits]; omega)
    rw [List.append_nil, hbits] at hgroups
    rw [pack, length_streamBits]
    exact hgroups
  rw [hpack, hbits]

/-- Unpack undoes Pack (R228, R176). -/
theorem unpack_pack (cs : List Code) : unpack (pack cs) = cs :=
  unpack_eq (streamBits_pack cs) (by rw [padBits, List.length_replicate]; omega)

end Sys2Proof.Machine
end

section
/-! The bindings both sides of the mirror hold (43_expand R210): learned codes in order, each bound to a
sequence of its own, so that D and T are inverse to each other. -/

namespace Sys2Proof.Machine

/-- With keys that differ, the search for a key finds the one entry that has it. -/
theorem find?_key_eq_some_iff {α β : Type} [BEq β] [LawfulBEq β] {l : List α} {f : α → β}
    (h : (l.map f).Nodup) {b : β} {x : α} :
    l.find? (fun y => f y == b) = some x ↔ x ∈ l ∧ f x = b := by
  have hkey : ∀ {c : β} {y : α}, l.find? (fun y => f y == c) = some y → f y = c := fun hfind => by
    simpa using List.find?_some hfind
  refine ⟨fun hfind => ⟨List.mem_of_find?_eq_some hfind, hkey hfind⟩, ?_⟩
  rintro ⟨hx, rfl⟩
  obtain ⟨y, hy⟩ : ∃ y, l.find? (fun y => f y == f x) = some y :=
    Option.isSome_iff_exists.1 (List.find?_isSome.2 ⟨x, hx, BEq.rfl⟩)
  rw [hy, List.inj_on_of_nodup_map h (List.mem_of_find?_eq_some hy) hx (hkey hy)]

/-- The learned bindings of a run with NEXT_CODE = `next`: the codes 257, …, `next` − 1 in order, bound
to sequences of two or more bytes that all differ (R43, R103, R132). -/
structure Books (learned : List Binding) (next : Nat) : Prop where
  low : 257 ≤ next
  high : next ≤ 4096
  codes : learned.map (fun x => x.1.toNat) = List.range' 257 (next - 257)
  keys : (learned.map Prod.snd).Nodup
  long : ∀ x ∈ learned, 2 ≤ x.2.length

/-- The run starts with nothing learned (R101, R131). -/
theorem books_nil : Books [] 257 :=
  ⟨Nat.le_refl _, by decide, rfl, List.nodup_nil, by simp⟩

theorem Books.mem_codes {learned : List Binding} {next : Nat} (h : Books learned next) {n : Nat} :
    (∃ x ∈ learned, x.1.toNat = n) ↔ 257 ≤ n ∧ n < next := by
  have hmem : n ∈ learned.map (fun x => x.1.toNat) ↔ 257 ≤ n ∧ n < next := by
    have hlow := h.low
    rw [h.codes, List.mem_range'_1]
    omega
  rw [← hmem, List.mem_map]

theorem Books.nodup_codes {learned : List Binding} {next : Nat} (h : Books learned next) :
    (learned.map Prod.fst).Nodup := by
  refine List.Nodup.of_map BitVec.toNat ?_
  rw [List.map_map, Function.comp_def, h.codes]
  exact List.nodup_range'

/-- T binds the bytes and what was learned (R130, R131). -/
theorem Books.tableLookup_iff {learned : List Binding} {next : Nat} (h : Books learned next)
    {k : Code} {w : Seq} : tableLookup learned k = some w ↔
      (∃ b, k = byteCode b ∧ w = [b]) ∨ (k, w) ∈ learned := by
  have hcode : (k, w) ∈ learned → 257 ≤ k.toNat := fun hmem =>
    (h.mem_codes.1 ⟨_, hmem, rfl⟩).1
  have hbyte : (∃ b, k = byteCode b ∧ w = [b]) → k.toNat < 256 := by
    rintro ⟨b, rfl, -⟩
    exact byteCode_toNat b ▸ b.isLt
  rcases first_code_cases k with rfl | hdict | hlit
  · have hnone : tableLookup learned Config.eos = none := rfl
    rw [hnone]
    refine iff_of_false (by simp) (not_or.2 ⟨fun hb => ?_, fun hmem => ?_⟩)
    · exact absurd (hbyte hb) (by decide)
    · exact absurd (hcode hmem) (by decide)
  · have hclass : classOf k = .dict := by rw [classOf, if_neg (by omega), if_neg (by omega)]
    have hnot : ¬ ∃ b, k = byteCode b ∧ w = [b] := fun hb => by
      have hlt := hbyte hb
      omega
    simp only [tableLookup, hclass, Option.map_eq_some_iff,
      find?_key_eq_some_iff (f := Prod.fst) h.nodup_codes, hnot, false_or]
    exact ⟨fun ⟨x, ⟨hx, hk⟩, hw⟩ => by rwa [← hk, ← hw], fun hmem => ⟨_, ⟨hmem, rfl⟩, rfl⟩⟩
  · have hnot : (k, w) ∉ learned := fun hmem => by
      have hle := hcode hmem
      omega
    rw [tableLookup_of_lt _ hlit, Option.some_inj, or_iff_left hnot]
    refine ⟨fun hw => ⟨litByte k, (byteCode_setWidth hlit).symm, hw.symm⟩, ?_⟩
    rintro ⟨b, rfl, rfl⟩
    rw [litByte, byteCode_setWidth_byte]

/-- D binds the bytes and what was learned (R100, R101). -/
theorem Books.dictLookup_iff {learned : List Binding} {next : Nat} (h : Books learned next)
    {k : Code} {w : Seq} : dictLookup learned w = some k ↔
      (∃ b, k = byteCode b ∧ w = [b]) ∨ (k, w) ∈ learned := by
  have hlong : (k, w) ∈ learned → 2 ≤ w.length := fun hmem => h.long _ hmem
  match w with
  | [] => simp [dictLookup, mt hlong]
  | [b] => simp [dictLookup, mt hlong, eq_comm]
  | b :: c :: w =>
    simp only [dictLookup, Option.map_eq_some_iff, find?_key_eq_some_iff (f := Prod.snd) h.keys]
    simp only [List.cons.injEq, reduceCtorEq, and_false, exists_false, false_or]
    exact ⟨fun ⟨x, ⟨hx, hw⟩, hk⟩ => by rwa [← hk, ← hw], fun hmem => ⟨_, ⟨hmem, rfl⟩, rfl⟩⟩

/-- D and T are inverse to each other (R210). -/
theorem Books.dictLookup_iff_tableLookup {learned : List Binding} {next : Nat}
    (h : Books learned next) {k : Code} {w : Seq} :
    dictLookup learned w = some k ↔ tableLookup learned k = some w :=
  h.dictLookup_iff.trans h.tableLookup_iff.symm

/-- The bound codes are the bytes and 257, …, NEXT_CODE − 1 (R112, R130). -/
theorem Books.exists_tableLookup_iff {learned : List Binding} {next : Nat} (h : Books learned next)
    {k : Code} : (∃ w, tableLookup learned k = some w) ↔
      k.toNat < 256 ∨ 257 ≤ k.toNat ∧ k.toNat < next := by
  constructor
  · rintro ⟨w, hw⟩
    rcases h.tableLookup_iff.1 hw with ⟨b, rfl, -⟩ | hmem
    · exact .inl (byteCode_toNat b ▸ b.isLt)
    · exact .inr (h.mem_codes.1 ⟨_, hmem, rfl⟩)
  · rintro (hlit | hdict)
    · exact ⟨_, tableLookup_of_lt _ hlit⟩
    · obtain ⟨x, hx, hk⟩ := h.mem_codes.2 hdict
      obtain rfl : x.1 = k := BitVec.eq_of_toNat_eq hk
      exact ⟨x.2, h.tableLookup_iff.2 (.inr hx)⟩

/-- A bound code is not EOS and is below NEXT_CODE. -/
theorem Books.of_tableLookup {learned : List Binding} {next : Nat} (h : Books learned next)
    {k : Code} {w : Seq} (hk : tableLookup learned k = some w) : k ≠ Config.eos ∧ k.toNat < next := by
  have hbound := h.exists_tableLookup_iff.1 ⟨w, hk⟩
  have hlow := h.low
  rw [ne_eos_iff]
  omega

/-- A new sequence, bound to NEXT_CODE where the code space allows it, keeps the books (R108, R133). -/
theorem Books.afterBindNext {learned : List Binding} {next : Nat} (h : Books learned next) {w : Seq}
    (hw : 2 ≤ w.length) (hnew : dictLookup learned w = none) :
    Books (bindNext learned next w).1 (bindNext learned next w).2 := by
  by_cases hc : next < 4096
  · have hlow := h.low
    have hfresh : w ∉ learned.map Prod.snd := fun hmem => by
      obtain ⟨x, hx, rfl⟩ := List.mem_map.1 hmem
      have hbound := h.dictLookup_iff.2 (.inr hx)
      rw [hnew] at hbound
      cases hbound
    rw [bindNext_of_lt _ _ hc]
    refine ⟨Nat.le_succ_of_le hlow, hc, ?codes, ?keys, ?long⟩
    case codes =>
      obtain ⟨m, rfl⟩ := Nat.exists_eq_add_of_le hlow
      rw [List.map_append, h.codes, Nat.add_sub_cancel_left, Nat.add_assoc, Nat.add_sub_cancel_left,
        List.range'_concat, Nat.one_mul]
      simp [Nat.mod_eq_of_lt hc]
    case keys =>
      rw [List.map_append, List.map_singleton, ← List.concat_eq_append]
      exact h.keys.concat hfresh
    case long => exact List.forall_mem_append.2 ⟨h.long, List.forall_mem_singleton.2 hw⟩
  · rwa [bindNext_of_not_lt _ _ hc]

theorem Books.next_bindNext {learned : List Binding} {next : Nat} (h : Books learned next) (w : Seq) :
    (bindNext learned next w).2 = min (next + 1) 4096 := by
  have hhigh := h.high
  by_cases hc : next < 4096
  · rw [bindNext_of_lt _ _ hc, Nat.min_eq_left hc]
  · rw [bindNext_of_not_lt _ _ hc]
    omega

end Sys2Proof.Machine
end

section
/-! Expanding what COMPRESS made gives the input back (43_expand R209), by the mirror invariant (R210):
each round of the decoder binds what the round of the encoder one code earlier bound. -/

namespace Sys2Proof.Machine

/-! ## A round of the encoder -/

/-- What the longest match leaves of the input. -/
def restAfter (learned : List Binding) (x : Seq) : Seq := x.drop (longestLen learned x)

theorem longestPrefix_append_restAfter (learned : List Binding) (x : Seq) :
    longestPrefix learned x ++ restAfter learned x = x :=
  List.take_append_drop ..

/-- The longest match of an input that is not empty is a key (R106, R107). -/
theorem exists_dictLookup_longestPrefix (learned : List Binding) {x : Seq} (hx : x ≠ []) :
    ∃ c, dictLookup learned (longestPrefix learned x) = some c :=
  Option.isSome_iff_exists.1 (longestUpTo_isSome (longestLen_pos learned hx))

/-- The longest match starts with the first byte of the input. -/
theorem take_one_longestPrefix (learned : List Binding) {x : Seq} (hx : x ≠ []) :
    (longestPrefix learned x).take 1 = x.take 1 := by
  have hpos := longestLen_pos learned hx
  rw [longestPrefix, List.take_take, Nat.min_eq_left hpos]

/-- At the end of the input a round binds nothing (R169). -/
theorem segment_last {learned : List Binding} {x : Seq} (next : Nat) (h : restAfter learned x = []) :
    (segment learned next x).learned = learned ∧ (segment learned next x).next = next := by
  have hle : x.length ≤ longestLen learned x := List.drop_eq_nil_iff.1 h
  rw [segment, growth_of_not fun hlt => Nat.not_lt.2 hle hlt.1]
  exact ⟨rfl, rfl⟩

theorem longestLen_lt_length {learned : List Binding} {x : Seq} (h : restAfter learned x ≠ []) :
    longestLen learned x < x.length :=
  Nat.not_le.1 fun hle => h (List.drop_eq_nil_iff.2 hle)

/-- The match and the byte after it. -/
theorem longestPrefix_append_take_one (learned : List Binding) (x : Seq) :
    longestPrefix learned x ++ (restAfter learned x).take 1 = x.take (longestLen learned x + 1) :=
  List.take_add.symm

/-- Otherwise it binds the match and the byte after it (R164). -/
theorem segment_grow {learned : List Binding} {x : Seq} (next : Nat) (h : restAfter learned x ≠ []) :
    (segment learned next x).learned =
        (bindNext learned next (longestPrefix learned x ++ (restAfter learned x).take 1)).1 ∧
      (segment learned next x).next =
        (bindNext learned next (longestPrefix learned x ++ (restAfter learned x).take 1)).2 := by
  rw [longestPrefix_append_take_one, segment, growth, if_pos (longestLen_lt_length h)]
  exact ⟨rfl, rfl⟩

/-- A round keeps the books, for what it binds is longer than the longest match (R105, R108). -/
theorem Books.afterSegment {learned : List Binding} {next : Nat} (h : Books learned next) {x : Seq}
    (hx : x ≠ []) :
    Books (segment learned next x).learned (segment learned next x).next := by
  by_cases hrest : restAfter learned x = []
  · obtain ⟨hl, hn⟩ := segment_last next hrest
    rwa [hl, hn]
  · have hlt := longestLen_lt_length hrest
    have hlong : 2 ≤ (x.take (longestLen learned x + 1)).length := by
      have hpos := longestLen_pos learned hx
      rw [List.length_take]
      omega
    obtain ⟨hl, hn⟩ := segment_grow next hrest
    rw [hl, hn, longestPrefix_append_take_one]
    exact h.afterBindNext hlong (longestUpTo_max (Nat.lt_succ_self _) hlt)

/-- Where the loop gives a code, it is that of the longest match, and the loop goes on after it. -/
theorem of_compressLoop_codes_cons {fuel : Nat} {learned : List Binding} {next : Nat} {x : Seq}
    {c : Code} {cs : List Code} (h : (compressLoop fuel learned next x).codes = c :: cs) :
    x ≠ [] ∧ dictLookup learned (longestPrefix learned x) = some c ∧
      ∃ f, fuel = f + 1 ∧ cs = (compressLoop f (segment learned next x).learned
        (segment learned next x).next (restAfter learned x)).codes := by
  have hx : x ≠ [] := by
    rintro rfl
    rw [compressLoop_nil] at h
    cases h
  obtain ⟨f, rfl⟩ : ∃ f, fuel = f + 1 := by
    refine Nat.exists_eq_succ_of_ne_zero ?_
    rintro rfl
    cases h
  obtain ⟨d, hd⟩ := exists_dictLookup_longestPrefix learned hx
  have hcode : (segment learned next x).codes = [d] := by rw [segment, hd, Option.getD_some]
  rw [compressLoop_of_ne_nil _ _ _ hx, CompressResult.andThen, hcode] at h
  obtain ⟨rfl, hcs⟩ := List.cons.inj h
  exact ⟨hx, hd, f, rfl, hcs.symm⟩

/-- Where input is left the loop gives a code. -/
theorem compressLoop_codes_ne_nil {fuel : Nat} {learned : List Binding} {next : Nat} {x : Seq}
    (hx : x ≠ []) (hf : x.length ≤ fuel) : (compressLoop fuel learned next x).codes ≠ [] := by
  obtain ⟨f, rfl⟩ := Nat.exists_eq_add_of_le' (Nat.le_trans (List.length_pos_of_ne_nil hx) hf)
  rw [compressLoop_of_ne_nil _ _ _ hx, CompressResult.andThen, segment]
  exact List.append_ne_nil_of_left_ne_nil (List.cons_ne_nil _ _) _

/-! ## The round of the decoder that follows it -/

/-- The code after a match is the decoder's next sequence, also where it is the one the match has just
bound, for then the match starts as the rest does (R199, R200, R207). -/
theorem Books.nextSeq_eq {learned : List Binding} {next : Nat} (h : Books learned next) {x : Seq}
    {c : Code} (hx : x ≠ []) (hrest : restAfter learned x ≠ [])
    (hc : dictLookup (segment learned next x).learned
      (longestPrefix (segment learned next x).learned (restAfter learned x)) = some c) :
    c ≠ Config.eos ∧ c.toNat ≤ next ∧ nextSeq learned next (longestPrefix learned x) c =
      longestPrefix (segment learned next x).learned (restAfter learned x) := by
  have hbooks := h.afterSegment hx
  rw [hbooks.dictLookup_iff_tableLookup] at hc
  have hfirst := take_one_longestPrefix (segment learned next x).learned hrest
  obtain ⟨hne, hlt⟩ := hbooks.of_tableLookup hc
  obtain ⟨hl, hn⟩ := segment_grow next hrest
  have hle : c.toNat ≤ next := by
    rw [hn, h.next_bindNext] at hlt
    omega
  refine ⟨hne, hle, ?_⟩
  generalize longestPrefix (segment learned next x).learned (restAfter learned x) = w
    at hc hfirst ⊢
  rw [hl] at hc
  rcases Nat.lt_or_eq_of_le hle with hold | rfl
  · rw [tableLookup_bindNext_of_lt _ hold] at hc
    rw [nextSeq, if_pos hold, hc, Option.getD_some]
  · have hnew : tableLookup learned c = none := Option.eq_none_iff_forall_ne_some.2 fun v hv =>
      absurd (h.of_tableLookup hv).2 (Nat.lt_irrefl _)
    rw [tableLookup_bindNext_self _ h.low hnew, Option.some_inj] at hc
    have hhead : (longestPrefix learned x).take 1 = (restAfter learned x).take 1 := by
      have hpos : 1 ≤ (longestPrefix learned x).length := by
        rw [length_longestPrefix]
        exact longestLen_pos learned hx
      rw [← hfirst, ← hc, List.take_append_of_le_length hpos]
    rw [nextSeq, if_neg (Nat.lt_irrefl _), hhead, hc]

/-- The round of the decoder emits the match and binds what the encoder bound after it (R210). -/
theorem Books.expandLoop_segment {learned : List Binding} {next : Nat} (h : Books learned next)
    {x : Seq} {c : Code} (ks : List Code) (hx : x ≠ []) (hrest : restAfter learned x ≠ [])
    (hc : dictLookup (segment learned next x).learned
      (longestPrefix (segment learned next x).learned (restAfter learned x)) = some c) :
    expandLoop (c :: ks) learned next (longestPrefix learned x) =
      (expandRound learned next (longestPrefix learned x) c).andThen
        (expandLoop ks (segment learned next x).learned (segment learned next x).next
          (longestPrefix (segment learned next x).learned (restAfter learned x))) := by
  obtain ⟨hne, hle, hseq⟩ := h.nextSeq_eq hx hrest hc
  have hfirst := take_one_longestPrefix (segment learned next x).learned hrest
  obtain ⟨hl, hn⟩ := segment_grow next hrest
  have hbinds : (expandRound learned next (longestPrefix learned x) c).learned =
      (segment learned next x).learned := by rw [expandRound, hseq, hfirst, hl]
  have hnext : (expandRound learned next (longestPrefix learned x) c).next =
      (segment learned next x).next := by rw [expandRound, hseq, hfirst, hn]
  rw [expandLoop_cons ks learned _ hne hle, hbinds, hnext, hseq]

/-! ## The whole run -/

/-- The expand run `r` gives `x` back, with the bindings of the compress run `q`, reading one code for
each of its codes. -/
structure ExpandResult.Undoes (r : ExpandResult) (x : Seq) (q : CompressResult) : Prop where
  out : r.out = x
  cause : r.cause = .none
  learned : r.learned = q.learned
  next : r.next = q.next
  count : r.count = q.codes.length

/-- With its first match at hand the decoder gives the rest of the input back from the codes after it and
EOS (R209). -/
theorem Books.expandLoop_undoes {fuel : Nat} {learned : List Binding} {next : Nat} {x : Seq} {c : Code}
    {cs : List Code} (h : Books learned next) (hf : x.length ≤ fuel)
    (hcodes : (compressLoop fuel learned next x).codes = c :: cs) :
    (expandLoop (cs ++ [Config.eos]) learned next (longestPrefix learned x)).Undoes x
      (compressLoop fuel learned next x) := by
  induction fuel generalizing learned next x c cs with
  | zero => cases hcodes
  | succ fuel ih =>
    obtain ⟨hx, -, f, hfuel, hcs⟩ := of_compressLoop_codes_cons hcodes
    obtain rfl := Nat.succ_inj.1 hfuel
    have hloop := compressLoop_of_ne_nil fuel learned next hx
    rw [← restAfter] at hloop
    by_cases hrest : restAfter learned x = []
    · obtain ⟨hl, hn⟩ := segment_last next hrest
      rw [hrest, compressLoop_nil] at hcs
      subst hcs
      rw [List.nil_append, expandLoop_eos]
      have hall := longestPrefix_append_restAfter learned x
      rw [hrest, List.append_nil] at hall
      refine ⟨hall, rfl, ?binds, ?nextCode, by rw [hcodes]; rfl⟩
      case binds => rw [hloop, hrest, compressLoop_nil, hl]; rfl
      case nextCode => rw [hloop, hrest, compressLoop_nil, hn]; rfl
    · have hshort : (restAfter learned x).length ≤ fuel := by
        have hpos := longestLen_pos learned hx
        rw [restAfter, List.length_drop]
        omega
      cases cs with
      | nil => exact absurd hcs.symm (compressLoop_codes_ne_nil hrest hshort)
      | cons d ds =>
        obtain ⟨-, hd, -⟩ := of_compressLoop_codes_cons hcs.symm
        have hundo := ih (h.afterSegment hx) hshort hcs.symm
        rw [List.cons_append, h.expandLoop_segment _ hx hrest hd, hloop]
        refine ⟨?out, hundo.cause, hundo.learned, hundo.next, ?count⟩
        case out =>
          rw [ExpandResult.andThen, hundo.out]
          exact longestPrefix_append_restAfter learned x
        case count =>
          rw [← hloop, hcodes, ExpandResult.andThen, hundo.count, ← hcs, Nat.add_comm]
          rfl

/-! ## The points of the mirror invariant -/

/-- At a point of the two runs the decoder's bindings are the encoder's, after `n` rounds from
NEXT_CODE = `start` (R210). -/
structure MirrorPoint (r : ExpandResult) (q : CompressResult) (start n : Nat) : Prop where
  cause : r.cause = .truncated
  learned : r.learned = q.learned
  next : r.next = q.next
  books : Books q.learned q.next
  grown : q.next = min (start + n) 4096

/-- Having read `n` codes after its first match, the decoder has the bindings of `n` rounds of the
encoder (R210). -/
theorem Books.mirrorPoint {n fuel : Nat} {learned : List Binding} {next : Nat} {x : Seq} {c : Code}
    {cs : List Code} (h : Books learned next)
    (hcodes : (compressLoop fuel learned next x).codes = c :: cs) (hn : n ≤ cs.length) :
    MirrorPoint (expandLoop (cs.take n) learned next (longestPrefix learned x))
      (compressLoop n learned next x) next n := by
  induction n generalizing fuel learned next x c cs with
  | zero => exact ⟨rfl, rfl, rfl, h, (Nat.min_eq_left h.high).symm⟩
  | succ n ih =>
    obtain ⟨hx, -, f, rfl, hcs⟩ := of_compressLoop_codes_cons hcodes
    cases cs with
    | nil => exact absurd hn (Nat.not_succ_le_zero n)
    | cons d ds =>
      obtain ⟨hrest, hd, -⟩ := of_compressLoop_codes_cons hcs.symm
      have hpoint := ih (h.afterSegment hx) hcs.symm (Nat.le_of_succ_le_succ hn)
      have hloop := compressLoop_of_ne_nil n learned next hx
      rw [← restAfter] at hloop
      rw [List.take_succ_cons, h.expandLoop_segment _ hx hrest hd, hloop]
      refine ⟨hpoint.cause, hpoint.learned, hpoint.next, hpoint.books, hpoint.grown.trans ?_⟩
      obtain ⟨-, hnext⟩ := segment_grow next hrest
      rw [hnext, h.next_bindNext]
      omega

/-! ## The first code -/

/-- The first code is that of the first match, a single byte (R101, R194). -/
theorem first_match {x : Seq} {c : Code}
    (h : dictLookup [] (longestPrefix [] x) = some c) :
    c.toNat < 256 ∧ longestPrefix [] x = [litByte c] := by
  have ht := books_nil.dictLookup_iff_tableLookup.1 h
  rw [tableLookup_nil] at ht
  split at ht
  · next hlit => exact ⟨hlit, (Option.some_inj.1 ht).symm⟩
  · cases ht

/-- The codes of COMPRESS are those of its loop and EOS; its bindings and NEXT_CODE are the loop's. -/
theorem compressAll_eq (x : Seq) : compressAll x =
    { compressLoop x.length [] 257 x with
      codes := (compressLoop x.length [] 257 x).codes ++ [Config.eos] } := rfl

/-- EXPAND of the codes of an input that is not empty: the byte of the first code, then the loop. -/
theorem expandAll_first {x : Seq} {c : Code} {cs : List Code}
    (hcodes : (compressLoop x.length [] 257 x).codes = c :: cs) (ks : List Code) :
    expandAll (c :: ks) = firstRead.andThen (expandLoop ks [] 257 (longestPrefix [] x)) := by
  obtain ⟨-, hc, -⟩ := of_compressLoop_codes_cons hcodes
  obtain ⟨hlit, hmatch⟩ := first_match hc
  rw [expandAll_lit ks hlit, hmatch]

/-- EXPAND(COMPRESS(X)) = Ok(X), with the same bindings, reading every code (R209). -/
theorem expandAll_compressAll_undoes (x : Seq) :
    (expandAll (compressAll x).codes).Undoes x (compressAll x) := by
  cases hcodes : (compressLoop x.length [] 257 x).codes with
  | nil =>
    obtain rfl : x = [] := by
      by_contra hx
      exact compressLoop_codes_ne_nil hx (Nat.le_refl _) hcodes
    exact ⟨rfl, rfl, rfl, rfl, rfl⟩
  | cons c cs =>
    have hundo := books_nil.expandLoop_undoes (Nat.le_refl _) hcodes
    rw [compressAll_eq, hcodes, List.cons_append, expandAll_first hcodes]
    refine ⟨hundo.out, hundo.cause, hundo.learned, hundo.next, ?_⟩
    rw [ExpandResult.andThen, hundo.count, hcodes, List.length_cons, List.length_cons,
      List.length_append, Nat.add_comm]
    rfl

/-- At point `n + 1` the decoder has the bindings of the encoder (R210). -/
theorem mirrorPoint_of_lt {x : Seq} {n : Nat} (hn : n + 1 < (compressAll x).codes.length) :
    MirrorPoint (decoderAt (compressAll x).codes (n + 1)) (encoderAt x (n + 1)) 257 n := by
  rw [compressAll_eq, List.length_append] at hn
  rw [compressAll_eq, decoderAt, encoderAt, Nat.add_sub_cancel]
  cases hcodes : (compressLoop x.length [] 257 x).codes with
  | nil =>
    rw [hcodes] at hn
    exact absurd (Nat.lt_of_succ_lt_succ hn) (Nat.not_lt_zero n)
  | cons c cs =>
    have hle : n ≤ cs.length := by
      rw [hcodes] at hn
      simpa using hn
    have hpoint := books_nil.mirrorPoint hcodes hle
    rw [List.cons_append, List.take_succ_cons, List.take_append_of_le_length hle,
      expandAll_first hcodes]
    exact ⟨hpoint.cause, hpoint.learned, hpoint.next, hpoint.books, hpoint.grown⟩

/-- Settles O48: the decoder undoes the encoder round by round, Unpack undoes Pack, and at each point
both sides hold the same books. -/
theorem roundTrip : Obligations.RoundTrip := by
  intro x
  have hundo := expandAll_compressAll_undoes x
  refine ⟨hundo.out, hundo.cause, unpack_pack _, hundo.learned, hundo.next, hundo.count,
    fun n hpos hn => ?_⟩
  obtain ⟨n, rfl⟩ := Nat.exists_eq_add_of_le' hpos
  have hpoint := mirrorPoint_of_lt hn
  have hgrown : (encoderAt x (n + 1)).next = 257 + min (n + 1 - 1) 3839 := by
    rw [hpoint.grown]
    omega
  refine ⟨hpoint.cause, hpoint.learned, hpoint.next.trans hgrown, hgrown, fun k w => ?mirror,
    fun k => ?bound⟩
  case mirror => rw [hpoint.learned, hpoint.books.dictLookup_iff_tableLookup]
  case bound =>
    rw [hpoint.learned, hpoint.books.exists_tableLookup_iff, hgrown, boundAt]
    omega

end Sys2Proof.Machine
end

section
/-! The wire bit by bit (44_host_interface R227, R228): where each bit of a stream of words stands, the
lengths of Pack and Unpack, and that the bits of a stream are those of its codes and fewer than 12 more. -/

namespace Sys2Proof.Machine

/-! ## Lengths -/

/-- Unpack takes the whole codes at the start of the stream; fewer bits than a code are left (R227). -/
theorem exists_streamBits_unpack (bytes : List Byte) : ∃ rest : List Bool, rest.length < 12 ∧
    streamBits bytes = streamBits (unpack bytes) ++ rest := by
  have hlen : (streamBits bytes).length = 8 * bytes.length := length_streamBits bytes
  have hwhole : ((streamBits bytes).take (12 * (8 * bytes.length / 12))).length =
      12 * (8 * bytes.length / 12) := by
    rw [List.length_take]
    omega
  obtain ⟨cs, -, hcodes⟩ := exists_streamBits hwhole
  have hsplit : streamBits bytes =
      streamBits cs ++ (streamBits bytes).drop (12 * (8 * bytes.length / 12)) := by
    rw [hcodes, List.take_append_drop]
  have hrest : ((streamBits bytes).drop (12 * (8 * bytes.length / 12))).length < 12 := by
    rw [List.length_drop]
    omega
  exact ⟨_, hrest, unpack_eq hsplit hrest ▸ hsplit⟩

/-- Unpack gives one code for each 12 bits (R227). -/
theorem length_unpack (bytes : List Byte) : (unpack bytes).length = 8 * bytes.length / 12 := by
  obtain ⟨rest, hrest, hbits⟩ := exists_streamBits_unpack bytes
  have hlen := congrArg List.length hbits
  rw [List.length_append, length_streamBits, length_streamBits] at hlen
  omega

/-- Pack fills its last byte (R228). -/
theorem length_pack (cs : List Code) : (pack cs).length = (12 * cs.length + 7) / 8 := by
  have hlen := congrArg List.length (streamBits_pack cs)
  rw [List.length_append, length_streamBits, length_streamBits, padBits, List.length_replicate] at hlen
  omega

/-- Settles O59: the bits of Pack are those of the codes and fewer than 12 more, from which Unpack takes
the codes; the lengths are those of the streams of bits. -/
theorem packUnpack : Obligations.PackUnpack := ⟨unpack_pack, length_pack, length_unpack⟩

/-! ## The place of a bit -/

/-- Bit `n` of a stream of words is bit `n % w` of word `n / w`, the most significant bit first. -/
theorem getD_streamBits {w : Nat} (hw : 0 < w) (vs : List (BitVec w)) (n : Nat) :
    (streamBits vs).getD n false = (vs.getD (n / w) 0).getMsbD (n % w) := by
  induction vs generalizing n with
  | nil => simp
  | cons v vs ih =>
    rw [streamBits_cons]
    rcases Nat.lt_or_ge n w with hn | hn
    · rw [List.getD_append _ _ _ _ (by simpa using hn), Nat.div_eq_of_lt hn, Nat.mod_eq_of_lt hn]
      simp [msbBits, hn]
    · rw [List.getD_append_right _ _ _ _ (by simpa using hn), length_msbBits, ih,
        Nat.div_eq_sub_div hw hn, Nat.mod_eq_sub_mod hn, List.getD_cons_succ]

/-- Where the words of one stream begin another one, their bits stand in the same places. -/
theorem getMsbD_of_streamBits_append {w v : Nat} (hw : 0 < w) (hv : 0 < v) {ws : List (BitVec w)}
    {vs : List (BitVec v)} {rest : List Bool} (h : streamBits vs = streamBits ws ++ rest) {n : Nat}
    (hn : n < w * ws.length) :
    (vs.getD (n / v) 0).getMsbD (n % v) = (ws.getD (n / w) 0).getMsbD (n % w) := by
  rw [← getD_streamBits hv, ← getD_streamBits hw, h,
    List.getD_append _ _ _ _ (by rwa [length_streamBits])]

/-- The bits of Pack past the last code are 0 (R228). -/
theorem getMsbD_pack_of_le {cs : List Code} {n : Nat} (hn : 12 * cs.length ≤ n) :
    ((pack cs).getD (n / 8) 0).getMsbD (n % 8) = false := by
  rw [← getD_streamBits (by decide), streamBits_pack,
    List.getD_append_right _ _ _ _ (by rwa [length_streamBits]), padBits,
    List.getD_eq_getElem?_getD, List.getElem?_replicate]
  split <;> rfl

/-- Settles O60: the wire bytes and the codes are the same stream of bits, cut into words of 8 and of 12
bits. -/
theorem wireBits : Obligations.WireBits := by
  refine ⟨length_unpack, length_pack, fun bytes j b hj hb => ?unpack, fun cs n hn => ?pack,
    fun cs n hn _ => getMsbD_pack_of_le hn⟩
  case unpack =>
    obtain ⟨rest, -, hbits⟩ := exists_streamBits_unpack bytes
    have hbit := getMsbD_of_streamBits_append (by decide) (by decide) hbits (n := 12 * j + b) (by omega)
    rw [hbit, Nat.mul_add_div (by decide), Nat.div_eq_of_lt hb, Nat.mul_add_mod,
      Nat.mod_eq_of_lt hb, Nat.add_zero]
  case pack =>
    exact getMsbD_of_streamBits_append (by decide) (by decide) (streamBits_pack cs) hn

end Sys2Proof.Machine
end

section
/-! Writes to the register port (44_host_interface R221, R230 to R234): the registers the host may not
write, the command words that start no run, and what every command word leaves unchanged. -/

namespace Sys2Proof.Machine

/-! ## The register port -/

/-- CMD reads 0, mid-run too (R36). -/
theorem readReg_cmd (s : State) : s.readReg 0 = 0 := by
  unfold State.readReg
  split <;> rfl

/-- A write to any index but CMD and IN_LEN has no effect (R234). -/
theorem hostMove_regWrite_ignored {idx : RegIdx} (h0 : idx ≠ 0) (h2 : idx ≠ 2) (v : Word)
    (s : State) : hostMove (.regWrite idx v) s = .next s := by
  rw [hostMove, hostRegWrite, if_neg h0, if_neg h2]

/-- Settles O9: the write is ignored, and a read is the register's value and an entry of the log. -/
theorem ignoredRegisterWrites : Obligations.IgnoredRegisterWrites :=
  ⟨fun s _ v h0 h2 => hostMove_regWrite_ignored h0 h2 v s, fun s idx h =>
    ⟨h.elim (· ▸ readReg_cmd s) (readReg_reserved s), _, hostMove_regRead s idx, rfl⟩⟩

/-! ## The command words -/

/-- A COMPRESS that is accepted and does not fit INBUF starts no run (R233). -/
theorem startCompress_of_lt {s : State} (h : s.nMax.toNat < s.inLen.toNat) :
    s.startCompress = s.takeFault .length 0 :=
  if_pos h

/-- Settles O16: the command of a machine at rest is accepted, and its fault delivers nothing. -/
theorem compressCommandLength : Obligations.CompressCommandLength := by
  intro s hb hn
  have hstart := startCompress_of_lt (s := s.acceptCmd) hn
  rw [exec, execCmdCompress, if_neg (by simp [hb]), hstart, takeFault_quiet (by rwa [busy_acceptCmd])]
  rfl

/-- A word that is no command, written at rest, is accepted and faults with USAGE (R231). -/
theorem exec_cmdInvalid {s : State} (hb : s.busy = false) (v : Word) :
    exec (.cmdInvalid v) s = .next { s.acceptCmd with
      cause := .usage, faultInfo := 0, phase := .fault } := by
  rw [exec, execCmdInvalid, if_neg (by simp [hb]), takeFault_quiet (by rwa [busy_acceptCmd])]

/-- STATUS at a USAGE fault: of its fields only STATE, IRQ and CAUSE are not 0 (R25, R231). -/
theorem statusWord_of_usage {s : State} (hp : s.phase = .fault) (hc : s.cause = .usage)
    (hr : s.selfref = false) (hn : s.nextCode = 0) : s.statusWord = 0x00000114 := by
  rw [State.statusWord, State.irq, (ended_iff s).2 (.inr hp), State.exhausted, hp, hc, hr, hn]
  decide

/-- Settles O18: the word decodes to CMD_INVALID, whose fault delivers nothing. -/
theorem invalidCommand : Obligations.InvalidCommand := by
  intro s v hb hc hx
  have hexec := exec_cmdInvalid hb v
  have hwrite : hostMove (.regWrite 0 v) s = exec (.cmdInvalid v) s := by
    rw [← decodeCmdFree_invalid hc hx, hostMove, hostRegWrite, if_pos rfl, decodeCmd, hb]
    rfl
  exact ⟨_, hwrite.trans hexec, hexec, rfl, statusWord_of_usage rfl rfl rfl rfl⟩

/-- A command word executed while a run is in progress aborts it, whichever it is (R232, R258). -/
theorem exec_command_of_busy {i : Instr} {v : Word} {s : State}
    (hi : i = .cmdCompress ∨ i = .cmdExpand ∨ i = .cmdInvalid v ∨ i = .cmdWhileBusy v)
    (hb : s.busy = true) : exec i s = .next s.abortRun := by
  rcases hi with rfl | rfl | rfl | rfl <;> exact congrArg Host.Outcome.next (if_pos hb)

/-- Settles O19: the write decodes to CMD_WHILE_BUSY, which is the fault of a run in progress. -/
theorem busyWriteAborts : Obligations.BusyWriteAborts := by
  intro s v hb
  refine ⟨?abort, ?write⟩
  case abort =>
    rw [exec_command_of_busy (.inr (.inr (.inr rfl))) hb, State.abortRun, takeFault_busy hb]
  case write =>
    rw [hostMove, hostRegWrite, if_pos rfl, decodeCmd, hb]
    rfl

/-- A command word, executed in any state, does what the write of some word to CMD does there (R230,
R232); for CMD_INVALID any word that is no command will do. -/
theorem exists_cmdWrite {i : Instr} {v : Word}
    (hi : i = .cmdCompress ∨ i = .cmdExpand ∨ i = .cmdInvalid v ∨ i = .cmdWhileBusy v) (s : State) :
    ∃ op, exec i s = exec (decodeCmd s.busy op) s := by
  cases hb : s.busy with
  | true =>
    have habort := exec_command_of_busy (i := .cmdWhileBusy v) (.inr (.inr (.inr rfl))) hb
    exact ⟨v, (exec_command_of_busy hi hb).trans habort.symm⟩
  | false =>
    rcases hi with rfl | rfl | rfl | rfl
    · exact ⟨Config.opCompress, rfl⟩
    · exact ⟨Config.opExpand, rfl⟩
    · exact ⟨0, rfl⟩
    · refine ⟨v, ?_⟩
      simp only [exec, execCmdWhileBusy, decodeCmd, decodeCmdFree, hb, Bool.false_eq_true, if_false]
      split_ifs <;> simp [execCmdCompress, execCmdExpand, execCmdInvalid, hb]

/-- A CMD write stores nothing (R230, R252). -/
theorem CmdEffect.memories_eq {v : Word} {s t : State} (he : CmdEffect v s t) :
    t.inbuf = s.inbuf ∧ t.node = s.node ∧ t.tab = s.tab ∧ t.lifo = s.lifo ∧ t.epoch = s.epoch := by
  cases he <;> simp

/-- Settles O20: a command word has one of the effects of a CMD write, each of which leaves the memories
and the datapath alone. -/
theorem commandFrame : Obligations.CommandFrame := by
  intro i v s t hi ht
  obtain ⟨op, hop⟩ := exists_cmdWrite hi s
  have he : CmdEffect op s t := hostMove_cmd_effect (hop.symm.trans ht)
  obtain ⟨hinbuf, hnode, htab, hlifo, hepoch⟩ := he.memories_eq
  refine ⟨inbufByte_congr hinbuf hepoch, nodeAt_congr hnode hepoch, tabAt_congr htab hepoch,
    fun a => by rw [State.lifoAt, State.lifoAt, hlifo, hepoch], ?_⟩
  cases he <;> simp [*]

end Sys2Proof.Machine
end

section
/-! Who writes INBUF and the code source (44_host_interface R222, R223, R239), and which steps of the engine
take a code (R226). -/

namespace Sys2Proof.Machine

/-! ## INBUF -/

theorem bufRead_congr {s t : State} (hn : t.nMax = s.nMax) (hi : t.inbuf = s.inbuf)
    (he : t.epoch = s.epoch) (a : Word) : t.bufRead a = s.bufRead a := by
  simp only [State.bufRead, hn, inbufByte_congr hi he]

/-- No phase changes what INBUF reads (R222, R76). -/
theorem EngineMove.bufRead_eq {s t : State} (hm : EngineMove s t) (a : Word) :
    t.bufRead a = s.bufRead a :=
  bufRead_congr hm.nMax_eq hm.inbuf_eq hm.epoch_eq a

theorem CmdEffect.bufRead_eq {v : Word} {s t : State} (he : CmdEffect v s t) (a : Word) :
    t.bufRead a = s.bufRead a := by
  obtain ⟨hinbuf, -, -, -, hepoch⟩ := he.memories_eq
  exact bufRead_congr (by cases he <;> simp) hinbuf hepoch a

/-- Settles O12: of the steps only a stored write and reset touch INBUF. -/
theorem inbufWriters : Obligations.InbufWriters := by
  intro s t ht
  cases step_moves ht with
  | engine u _ hu hm =>
    obtain ⟨ts, rfl⟩ := exists_turns_of_engineTurn hu
    exact .inl hm.bufRead_eq
  | waited => exact .inl fun _ => rfl
  | host m ts _ hts he =>
    cases he with
    | bufWrite a b hm hc ha =>
      exact .inr (.inl ⟨a, b, ts, hm ▸ hts, hc, ha, bufRead_write { s with turns := ts } a b ha⟩)
    | reset hm => exact .inr (.inr ⟨ts, hm ▸ hts⟩)
    | cmd v _ _ hc => exact .inl hc.bufRead_eq
    | regRead | inLen | ignored | bufRead | dropped | attach => exact .inl fun _ => rfl

/-! ## The code source -/

theorem CmdEffect.source_eq {v : Word} {s t : State} (he : CmdEffect v s t) :
    t.source = s.source := by
  cases he <;> simp

/-- Settles O13: the two cases of an attach; of the steps only an attach writes the source. -/
theorem attachSource : Obligations.AttachSource := by
  refine ⟨fun s src he => if_neg he, fun s src he => if_pos he, fun s t ht hne => ?_⟩
  cases step_moves ht with
  | engine u _ hu hm =>
    obtain ⟨ts, rfl⟩ := exists_turns_of_engineTurn hu
    exact absurd hm.source_eq hne
  | waited => exact absurd rfl hne
  | host m ts _ hts he =>
    cases he with
    | attach src hm hmode => exact ⟨src, ts, hm ▸ hts, hmode, rfl⟩
    | cmd v _ _ hc => exact absurd hc.source_eq hne
    | regRead | inLen | ignored | bufRead | dropped | bufWrite | reset => exact absurd rfl hne

/-- A finite source has the codes it lists (R223). -/
theorem CodeSource.at?_of_ends {src : CodeSource} (h : src.tail = .ends) (pos : Nat) :
    src.at? pos = src.codes[pos]? := by
  unfold CodeSource.at?
  split
  · rfl
  · next hpos => rw [h, List.getElem?_eq_none (Nat.le_of_not_lt hpos)]

/-- An infinite source has a code at every position (R223). -/
theorem CodeSource.isSome_at?_of_infinite {src : CodeSource} (h : src.tail ≠ .ends) (pos : Nat) :
    (src.at? pos).isSome = true := by
  unfold CodeSource.at?
  split
  · next hpos => simp [hpos]
  · cases htail : src.tail with
    | ends => exact absurd htail h
    | repeats c cs =>
      have hmod : (pos - src.codes.length) % (cs.length + 1) < (c :: cs).length :=
        Nat.mod_lt _ (Nat.succ_pos _)
      exact Option.isSome_iff_exists.2 ⟨_, List.getElem?_eq_getElem hmod⟩
    | unknown name => rfl

/-- X_FIRST and X_READ take the code at the read position, if there is one; no other step of the engine
reads the source (R192, R197). -/
theorem EngineMove.read_cases {s t : State} (hm : EngineMove s t) :
    (((s.phase = .xFirst ∨ s.phase = .xRead) → s.srcCode = none) ∧
      t.reads = s.reads ∧ t.srcPos = s.srcPos) ∨
    ((s.phase = .xFirst ∨ s.phase = .xRead) ∧ ∃ k, s.srcCode = some k ∧
      t.k = k ∧ t.reads = s.reads ++ [k] ∧ t.srcPos = s.srcPos + 1 ∧
      t.codeCount = s.codeCount + 1) := by
  cases hm
  case firstEos h hk => exact .inr ⟨.inl h, _, hk, rfl, rfl, rfl, rfl⟩
  case firstLit h k hk _ => exact .inr ⟨.inl h, k, hk, rfl, rfl, rfl, rfl⟩
  case firstBad h k hk _ => exact .inr ⟨.inl h, k, hk, by simp⟩
  case readEos h hk => exact .inr ⟨.inr h, _, hk, rfl, rfl, rfl, rfl⟩
  case read h k hk _ => exact .inr ⟨.inr h, k, hk, rfl, rfl, rfl, rfl⟩
  case truncated he => exact .inl ⟨fun _ => he, by simp⟩
  case rest h => exact .inl ⟨by rcases h with h | h | h <;> simp [h], rfl, rfl⟩
  all_goals exact .inl (by simp [*])

/-- Settles O14: the codes of a finite and of an infinite source, and the two phases that take one. -/
theorem sourceReads : Obligations.SourceReads := by
  refine ⟨fun s h => ?finite, fun s h => ?infinite, fun s t k hp hk ht => ?taken, fun s t ht => ?frame⟩
  case finite =>
    have hcode : s.srcCode = s.source.codes[s.srcPos]? := CodeSource.at?_of_ends h _
    have heod : s.srcEod = s.srcCode.isNone := rfl
    exact ⟨by rw [heod, hcode, Option.isNone_iff_eq_none, List.getElem?_eq_none_iff], hcode⟩
  case infinite =>
    rw [State.srcEod, Option.isNone_eq_false_iff]
    exact CodeSource.isSome_at?_of_infinite h _
  case taken =>
    rcases (engineStep_moves ht).read_cases with ⟨hnone, -⟩ | ⟨-, k', hk', htaken⟩
    · cases hk.symm.trans (hnone hp)
    · cases hk.symm.trans hk'
      exact htaken
  case frame =>
    rcases (engineStep_moves ht).read_cases with ⟨-, hkept⟩ | ⟨hp, k, hk, -, -, hpos, -⟩
    · exact .inl hkept
    · exact .inr ⟨hp, by rw [State.srcEod, ← State.srcCode, hk]; rfl, hpos⟩

end Sys2Proof.Machine
end

section
/-! How a run ends (44_host_interface R237, 60_exceptions R252): with Close in DONE, with Abort in FAULT, or
by reset. -/

namespace Sys2Proof.Machine

/-- With no run in progress the engine rests (R269). -/
theorem EngineMove.eq_of_not_busy {s t : State} (hm : EngineMove s t) (hb : s.busy = false) :
    t = s := by
  cases hm
  case rest => rfl
  case truncated h _ => rcases h with h | h <;> simp [State.busy, h, Phase.mode] at hb
  all_goals simp [State.busy, Phase.mode, *] at hb

/-- The run in progress in `s` has ended in `t` with Close in DONE (R237). -/
structure State.ClosesTo (s t : State) : Prop where
  phase : t.phase = .done
  sink : t.sink = s.sink ++ [.close]
  cause : t.cause = s.cause

/-- The run in progress in `s` has ended in `t` with Abort in FAULT: a cause is recorded, the counters
keep their values but for a code just taken, and INBUF is unchanged (R74, R252). -/
structure State.AbortsTo (s t : State) : Prop where
  phase : t.phase = .fault
  sink : t.sink = s.sink ++ [.abort]
  cause : t.cause ≠ .none
  nextCode : t.nextCode = s.nextCode
  byteCount : t.byteCount = s.byteCount
  selfref : t.selfref = s.selfref
  codeCount : t.codeCount = s.codeCount ∨
    t.codeCount = s.codeCount + 1 ∧ ∃ k, t.reads = s.reads ++ [k]
  bufRead : ∀ a, t.bufRead a = s.bufRead a

/-- Fault entry of a run in progress is such an end (R252). -/
theorem abortsTo_takeFault {s : State} (hb : s.busy = true) {c : Cause} (hc : c ≠ .none) (x : Code) :
    s.AbortsTo (s.takeFault c x) := by
  rw [takeFault_busy hb]
  exact ⟨rfl, rfl, hc, rfl, rfl, rfl, .inl rfl, fun _ => rfl⟩

/-- So is fault entry right after a code is taken (R192, R195). -/
theorem abortsTo_takeCode_takeFault {s : State} (hb : s.busy = true) {c : Cause} (hc : c ≠ .none)
    (k x : Code) : s.AbortsTo ((s.takeCode k).takeFault c x) := by
  rw [takeFault_busy (by rwa [busy_takeCode])]
  exact ⟨rfl, rfl, hc, rfl, rfl, rfl, .inr ⟨rfl, k, rfl⟩, fun _ => rfl⟩

/-- A phase that ends the run closes it or aborts it (R237, R253). -/
theorem EngineMove.end_cases {s t : State} (hm : EngineMove s t) (hb : s.busy = true)
    (he : t.busy = false) : s.ClosesTo t ∨ s.AbortsTo t := by
  cases hm
  case cClose | xClose => exact .inl ⟨rfl, rfl, rfl⟩
  case truncated => exact .inr (abortsTo_takeFault hb (by decide) _)
  case firstBad k _ _ => exact .inr (abortsTo_takeCode_takeFault hb (by decide) k _)
  case resolveBad => exact .inr (abortsTo_takeFault hb (by decide) _)
  case rest => simp [hb] at he
  all_goals simp [State.busy, Phase.mode] at he

/-- A step that ends a run is reset, or it closes the run or aborts it (R237). -/
theorem step_end_cases {s t : State} (ht : step s = .next t) (hb : s.busy = true)
    (he : t.busy = false) :
    (∃ ts, s.turns = .host .reset :: ts ∧ t.sink = s.sink ∧ t.irq = false) ∨
      s.ClosesTo t ∨ s.AbortsTo t := by
  rcases step_cases ht with ⟨ts, -, hm⟩ | ⟨v, ts, -, hc⟩ | ⟨ts, hts, rfl⟩ | h
  · exact .inr ((hm.end_cases hb he).imp (fun h => { h with }) (fun h => { h with }))
  · rw [hc.aborts hb]
    have habort := abortsTo_takeFault (s := { s with turns := ts }) hb (c := .cmdBusy) (by decide) 0
    exact .inr (.inr { habort with })
  · exact .inl ⟨ts, hts, rfl, rfl⟩
  · rw [h] at he
    exact absurd (hb.symm.trans he) (by decide)

/-- With no run in progress a step delivers nothing (R224). -/
theorem step_sink_of_not_busy {s t : State} (ht : step s = .next t) (hb : s.busy = false) :
    t.sink = s.sink := by
  rcases step_cases ht with ⟨ts, -, hm⟩ | ⟨v, ts, -, hc⟩ | ⟨ts, -, rfl⟩ | h
  · rw [hm.eq_of_not_busy hb]
  · exact hc.sink_of_not_busy hb
  · rfl
  · rw [h]

/-- Settles O53: a run ends by Close, by Abort or by reset, and the first two leave irq at 1. -/
theorem endOfRun : Obligations.EndOfRun := by
  refine ⟨fun s t ht hb he => ?_, fun s t => step_sink_of_not_busy⟩
  rcases step_end_cases ht hb he with hreset | hclose | habort
  · exact .inl hreset
  · exact .inr ⟨(ended_iff t).2 (.inl hclose.phase), .inl ⟨hclose.phase, hclose.sink, hclose.cause⟩⟩
  · exact .inr ⟨(ended_iff t).2 (.inr habort.phase), .inr ⟨habort.phase, habort.sink, habort.cause,
      habort.nextCode, habort.byteCount, habort.selfref, habort.codeCount, habort.bufRead⟩⟩

end Sys2Proof.Machine
end

section
/-! What holds while no run is in progress, and which step raises which fault (60_exceptions R253 to
R255, R269). -/

namespace Sys2Proof.Machine

/-- Settles O38: the step of a phase that finds no code at the read position. -/
theorem truncated : Obligations.Truncated := fun _ hp he =>
  engineStep_truncated hp (Option.isNone_iff_eq_none.1 he)

/-- Settles O31: the engine rests, a register read draws no free value, and of the other
transactions only the write of IN_LEN touches a register. -/
theorem quiescentHolds : Obligations.QuiescentHolds := by
  intro s t hb ht hcmd hreset
  cases step_moves ht with
  | engine u _ hu hm =>
    obtain ⟨ts, rfl⟩ := exists_turns_of_engineTurn hu
    rw [hm.eq_of_not_busy hb]
    exact ⟨rfl, .inl rfl⟩
  | waited => exact ⟨rfl, .inl rfl⟩
  | host m ts _ hts he =>
    cases he with
    | cmd v hm => exact absurd (hm ▸ hts) (hcmd v ts)
    | reset hm => exact absurd (hm ▸ hts) (hreset ts)
    | inLen v hm => exact ⟨rfl, .inr ⟨ts, hm ▸ hts⟩⟩
    | regRead idx =>
      have hdraws :
          (if State.busy { s with turns := ts } then s.draws + 1 else s.draws) = s.draws :=
        if_neg (Bool.eq_false_iff.1 hb)
      exact ⟨by rw [hdraws], .inl rfl⟩
    | ignored | bufRead | dropped | bufWrite | attach => exact ⟨rfl, .inl rfl⟩

/-! ## The faults of the engine -/

/-- Every next state of an engine step that enters FAULT, by its reason (R253). -/
inductive EngineFault (s : State) : State → Prop
  | truncated (h : s.phase = .xFirst ∨ s.phase = .xRead) (he : s.srcCode = none) :
      EngineFault s (s.takeFault .truncated 0)
  | firstBad (h : s.phase = .xFirst) (k : Code) (hk : s.srcCode = some k) (hbad : 257 ≤ k.toNat) :
      EngineFault s ((s.takeCode k).takeFault .malformed k)
  | resolveBad (h : s.phase = .xResolve) (hne : s.k ≠ Config.eos)
      (hgt : s.nextCode.toNat < s.k.toNat) : EngineFault s (s.takeFault .malformed s.k)

/-- The reasons for which the engine's next step enters FAULT (R253). -/
def State.FaultsNext (s : State) : Prop :=
  ((s.phase = .xFirst ∨ s.phase = .xRead) ∧ s.srcEod = true) ∨
  (s.phase = .xFirst ∧ ∃ k, s.srcCode = some k ∧ 257 ≤ k.toNat) ∨
  (s.phase = .xResolve ∧ s.k ≠ Config.eos ∧ s.nextCode.toNat < s.k.toNat)

/-- A phase that leads to FAULT faults for one of these reasons. -/
theorem EngineMove.engineFault {s t : State} (hm : EngineMove s t) (hne : s.phase ≠ .fault)
    (hf : t.phase = .fault) : EngineFault s t := by
  cases hm
  case truncated h he => exact .truncated h he
  case firstBad h k hk hbad => exact .firstBad h k hk hbad
  case resolveBad h heos hgt => exact .resolveBad h heos hgt
  case rest => exact absurd hf hne
  all_goals cases hf

theorem EngineFault.faultsNext {s t : State} (hf : EngineFault s t) : s.FaultsNext := by
  cases hf with
  | truncated h he => exact .inl ⟨h, Option.isNone_iff_eq_none.2 he⟩
  | firstBad h k hk hbad => exact .inr (.inl ⟨h, k, hk, hbad⟩)
  | resolveBad h hne hgt => exact .inr (.inr ⟨h, hne, hgt⟩)

/-- A first code of 257 or more is taken and aborts the run (R195). -/
theorem engineStep_xFirst_bad {s : State} {k : Code} (hp : s.phase = .xFirst)
    (hk : s.srcCode = some k) (hbad : 257 ≤ k.toNat) : engineStep s = .next { s.takeCode k with
      sink := s.sink ++ [.abort], cause := .malformed, faultInfo := k, phase := .fault } := by
  have hexec := exec_cwFirstBad (s := s.takeCode k) hp rfl hbad
  rw [engineStep_xFirst hp hk, decodeFirst_bad hbad]
  exact hexec

/-- Where there is a reason, the step does enter FAULT. -/
theorem State.FaultsNext.phase {s t : State} (h : s.FaultsNext) (ht : engineStep s = .next t) :
    t.phase = .fault := by
  rcases h with ⟨hp, he⟩ | ⟨hp, k, hk, hbad⟩ | ⟨hp, hne, hgt⟩
  · cases (truncated s hp he).symm.trans ht
    rfl
  · cases (engineStep_xFirst_bad hp hk hbad).symm.trans ht
    rfl
  · cases (engineStep_xResolve_bad hp hne hgt).symm.trans ht
    rfl

/-- The end of the data, outside X_RESOLVE, is TRUNCATED (R255). -/
theorem EngineFault.cause_truncated {s t : State} (hf : EngineFault s t) (he : s.srcEod = true)
    (hp : s.phase ≠ .xResolve) : t.cause = .truncated ∧ t.faultInfo = 0 := by
  cases hf with
  | truncated => exact ⟨takeFault_cause .., takeFault_faultInfo ..⟩
  | firstBad _ k hk => cases hk.symm.trans (Option.isNone_iff_eq_none.1 he)
  | resolveBad h => exact absurd h hp

/-- A code that is there, or in K in X_RESOLVE, is MALFORMED and is recorded (R254). -/
theorem EngineFault.cause_malformed {s t : State} (hf : EngineFault s t)
    (he : s.srcEod = false ∨ s.phase = .xResolve) : t.cause = .malformed ∧ t.faultInfo = t.k := by
  cases hf with
  | truncated h hnone =>
    rcases he with he | hp
    · cases (Option.isNone_iff_eq_none.2 hnone).symm.trans he
    · rcases h with h | h <;> cases h.symm.trans hp
  | firstBad | resolveBad => simp

/-- With no run in progress the engine takes no step (R269). -/
theorem engineStep_rest {s : State} (hp : s.phase = .idle ∨ s.phase = .done ∨ s.phase = .fault) :
    engineStep s = .next s := by
  rcases hp with hp | hp | hp <;> simp only [engineStep, hp]

/-! ## The faults of a CMD write -/

/-- A CMD write that ends in FAULT: CMD_BUSY of a run in progress, else LENGTH of COMPRESS and USAGE
of a word that is no command, with no code (R231 to R233). -/
theorem CmdEffect.fault_causes {v : Word} {s t : State} (he : CmdEffect v s t)
    (hf : t.phase = .fault) : t.faultInfo = 0 ∧
      (if s.busy then t.cause = .cmdBusy
       else if v = Config.opCompress then t.cause = .length
       else v ≠ Config.opExpand ∧ t.cause = .usage) := by
  cases he with
  | abort hb => simp [hb]
  | tooLong hb hv => simp [hb, hv]
  | usage hb hc hx => simp [hb, hc, hx]
  | compress | expand => cases hf

/-- Settles O52: the engine enters FAULT exactly for its three reasons, at rest it takes no step, and
a CMD write faults by its effect. -/
theorem faultsByPhase : Obligations.FaultsByPhase := by
  refine ⟨fun s t ht hne => ?engine, fun s => engineStep_rest, fun s t v ht hf => ?cmd⟩
  case engine =>
    have hfault := (engineStep_moves ht).engineFault hne
    exact ⟨⟨fun hf => (hfault hf).faultsNext, fun h => State.FaultsNext.phase h ht⟩,
      fun hf => (hfault hf).cause_truncated, fun hf => (hfault hf).cause_malformed⟩
  case cmd => exact (hostMove_cmd_effect ht).fault_causes hf

end Sys2Proof.Machine
end

section
/-! Reset (70_reset R280, R281): what is read of a machine whose registers have their reset values, right
after power-up and after the reset transaction. -/

namespace Sys2Proof.Machine

/-- STATUS does not speak of the capacity, so the word is a closed one. -/
theorem statusWord_resetWith (m : Word) : (State.resetWith m).statusWord = 0 :=
  have hword : (State.resetWith m).statusWord = (State.resetWith 0).statusWord := rfl
  hword.trans (by decide)

theorem readReg_resetWith (m : Word) (idx : RegIdx) : (State.resetWith m).readReg idx = 0 := by
  rw [readReg_of_not_busy rfl]
  unfold State.regValue
  split
  case h_2 => exact statusWord_resetWith m
  all_goals rfl

/-- What the registers read after reset rests on their reset values alone. -/
theorem readReg_assertReset (s : State) (idx : RegIdx) : s.assertReset.readReg idx = 0 :=
  readReg_resetWith s.nMax idx

/-- D binds nothing until a run has seeded it (R42). -/
theorem dict_of_nextCode_eq_zero {s : State} (h : s.nextCode = 0) (x : Seq) : s.dict x = none :=
  if_pos h

/-- T binds nothing until a run has seeded it (R42). -/
theorem table_of_nextCode_eq_zero {s : State} (h : s.nextCode = 0) (k : Code) : s.table k = none :=
  if_pos h

/-- Settles O1: the reads follow from the reset values of the registers, and D and T from NEXT_CODE = 0. -/
theorem resetTransaction : Obligations.ResetTransaction := by
  refine ⟨fun s => ⟨s.assertReset, rfl, rfl, rfl, rfl, ?_, rfl, readReg_assertReset s,
    dict_of_nextCode_eq_zero rfl, table_of_nextCode_eq_zero rfl, rfl, rfl, rfl, rfl⟩, rfl, rfl,
    statusWord_resetWith _, readReg_resetWith _, dict_of_nextCode_eq_zero rfl,
    table_of_nextCode_eq_zero rfl, rfl, rfl, rfl⟩
  exact statusWord_resetWith s.nMax

end Sys2Proof.Machine
end

section
/-! Nothing of an earlier run reaches a compress run (70_reset R283). Two runs on the same input go in
step: all that an engine step reads is the input, the registers this run has written, and the nodes of
bound codes, which this run has seeded or inserted (10_state R45). -/

namespace Sys2Proof.Machine

/-! ## Two runs in step -/

/-- What the host and the sink observe of two runs is the same in `s` and `t`, with the events counted from
the start of each run, `a` and `b`. -/
structure State.ShownAlike (a b s t : State) : Prop where
  phase : t.phase = s.phase
  events : ∃ es, s.sink = a.sink ++ es ∧ t.sink = b.sink ++ es
  nextCode : t.nextCode = s.nextCode
  codeCount : t.codeCount = s.codeCount
  byteCount : t.byteCount = s.byteCount
  cause : t.cause = s.cause
  selfref : t.selfref = s.selfref
  faultInfo : t.faultInfo = s.faultInfo
  assigns : t.assigns = s.assigns

/-- What the walk has found is the same in `s` and `t` (R115). -/
structure State.FoundAlike (s t : State) : Prop where
  bestCode : t.bestCode = s.bestCode
  bestLen : t.bestLen = s.bestLen
  missNode : t.missNode = s.missNode
  missDir : t.missDir = s.missDir

/-- Two runs past C_SEED that what a step reads does not tell apart: the input, the nodes of the bound
codes, and what the walk has found, in the phases from the walk to C_ADV. -/
structure State.InStep (a b s t : State) : Prop extends State.ShownAlike a b s t where
  n : t.n = s.n
  input : t.input = s.input
  i : t.i = s.i
  nodes : ∀ k, s.bound k → t.nodeAt k = s.nodeAt k
  found : s.phase = .cWalk ∨ s.phase = .cEmit ∨ s.phase = .cGrow ∨ s.phase = .cAdv → s.FoundAlike t

variable {a b s t : State}

/-- One more event, the same in both runs. -/
theorem State.ShownAlike.events_snoc (h : a.ShownAlike b s t) {e e' : Event} (he : e' = e) :
    ∃ es, s.sink ++ [e] = a.sink ++ es ∧ t.sink ++ [e'] = b.sink ++ es := by
  obtain ⟨es, hs, ht⟩ := h.events
  subst he
  exact ⟨es ++ [e'], by rw [hs, List.append_assoc], by rw [ht, List.append_assoc]⟩

/-! ## What a step reads -/

theorem getElem?_input {c : Word} (hc : c.toNat < s.n.toNat) :
    s.input[c.toNat]? = some (s.inbufByte c) := by
  simp [State.input, State.inbufSlice, hc]

theorem State.InStep.inbufByte_eq (h : a.InStep b s t) {c : Word} (hc : c.toNat < s.n.toNat) :
    t.inbufByte c = s.inbufByte c := by
  have hread := getElem?_input (s := t) (h.n ▸ hc)
  rw [h.input, getElem?_input hc] at hread
  exact (Option.some.inj hread).symm

theorem State.InStep.inbufSlice_eq (h : a.InStep b s t) {l : Nat}
    (hl : s.i.toNat + l ≤ s.n.toNat) : t.inbufSlice t.i l = s.inbufSlice s.i l := by
  rw [← take_drop_input hl, ← take_drop_input (by rw [h.i, h.n]; exact hl), h.input, h.i]

/-- The input lies inside INBUF, whatever the capacity (R69). -/
theorem State.InStep.n_le (h : a.InStep b s t) (ht : Inv t) (hmode : s.phase.mode = .compressing) :
    s.n.toNat ≤ t.nMax.toNat :=
  h.n ▸ ht.compress.n_le (h.phase ▸ hmode)

theorem State.InStep.afterMatch_eq (h : a.InStep b s t) (hf : s.FoundAlike t) :
    t.afterMatch = s.afterMatch := by
  rw [State.afterMatch, State.afterMatch, h.i, hf.bestLen]

/-- During the walk J and P follow from what it has found (R115). -/
theorem State.InStep.walking_eq (h : a.InStep b s t) (hs : Inv s) (ht : Inv t)
    (hp : s.phase = .cWalk) : t.j = s.j ∧ t.p = s.p := by
  obtain ⟨hjs, hps⟩ := hs.compress.walking hp
  obtain ⟨hjt, hpt⟩ := ht.compress.walking (h.phase.trans hp)
  have hf := h.found (.inl hp)
  have hmiss := (hs.compress.matched (.inl hp)).miss_bound
  constructor
  · exact BitVec.eq_of_toNat_eq (by rw [hjt, hjs, h.i, hf.bestLen])
  · rw [hpt, hps, hf.missNode, hf.missDir, h.nodes _ hmiss]

theorem State.InStep.engineStep_cMatch (h : a.InStep b s t) (ht : Inv t) (hp : s.phase = .cMatch)
    (hlt : s.i.toNat < s.n.toNat) :
    engineStep t = .next { t.walkStart (s.inbufByte s.i) with phase := .cWalk } := by
  have hmax := h.n_le ht (by rw [hp]; rfl)
  have hne : t.i ≠ t.n := by rw [h.i, h.n]; exact fun e => Nat.ne_of_lt hlt (congrArg _ e)
  have hstep := engineStep_cMatch_start (h.phase.trans hp) hne (by rw [h.i]; omega)
  rwa [h.i, h.inbufByte_eq hlt] at hstep

theorem State.InStep.engineStep_cWalk (h : a.InStep b s t) (ht : Inv t) (hp : s.phase = .cWalk)
    (hj : t.j = s.j) (hnil : t.p ≠ Config.nil) (hlt : s.j.toNat < s.n.toNat) :
    engineStep t = .next (t.walkVisit (s.inbufByte s.j)) := by
  have hmax := h.n_le ht (by rw [hp]; rfl)
  have hne : t.j ≠ t.n := by rw [hj, h.n]; exact fun e => Nat.ne_of_lt hlt (congrArg _ e)
  have hstep := engineStep_cWalk_visit (h.phase.trans hp) hne hnil (by rw [hj]; omega)
  rwa [hj, h.inbufByte_eq hlt] at hstep

theorem State.InStep.engineStep_cGrow (h : a.InStep b s t) (ht : Inv t) (hp : s.phase = .cGrow)
    (hf : s.FoundAlike t) (hlt : s.i.toNat + s.bestLen.toNat < s.n.toNat)
    (hc : s.nextCode.toNat < 4096) :
    engineStep t = .next { t.trieInsert (s.inbufByte s.afterMatch) with phase := .cAdv } := by
  have hmax := h.n_le ht (by rw [hp]; rfl)
  have hafter : s.afterMatch.toNat < s.n.toNat := by
    rwa [afterMatch_toNat_of_le (Nat.le_of_lt hlt)]
  have hstep := engineStep_cGrow_insert (h.phase.trans hp) (by rwa [h.i, hf.bestLen, h.n])
    (by rwa [h.n]) (by rwa [h.nextCode])
  rwa [h.afterMatch_eq hf, h.inbufByte_eq hafter] at hstep

/-! ## What a step writes -/

/-- After C_SEED the bound codes are the bytes, and their nodes the roots, in both runs (R113). -/
theorem inStep_seeded (h : s.ShownAlike t s t) (hn : t.n = s.n) (hin : t.input = s.input) :
    s.InStep t
      { s.trieSeed with
        i := 0, nextCode := Config.firstFree, codeCount := 0, byteCount := 0, phase := .cMatch }
      { t.trieSeed with
        i := 0, nextCode := Config.firstFree, codeCount := 0, byteCount := 0, phase := .cMatch } where
  phase := rfl
  events := h.events
  nextCode := rfl
  codeCount := rfl
  byteCount := rfl
  cause := h.cause
  selfref := h.selfref
  faultInfo := h.faultInfo
  assigns := h.assigns
  n := hn
  input := hin
  i := rfl
  nodes := fun k hk => by
    obtain ⟨hne, hlt⟩ := (bound_iff _ k).1 hk
    have hlt : k.toNat < 257 := hlt
    have hbyte : k.toNat < 256 := by omega
    have hroot : ∀ u : State, u.trieSeed.nodeAt k = rootNode k.toNat := fun u =>
      (nodeAt_trieSeed u k).trans (if_pos hbyte)
    exact (hroot t).trans (hroot s).symm
  found := by simp

theorem State.InStep.walkStart (h : a.InStep b s t) (hlow : 257 ≤ s.nextCode.toNat) (c : Byte) :
    a.InStep b { s.walkStart c with phase := .cWalk } { t.walkStart c with phase := .cWalk } :=
  { h with
    phase := rfl
    found := fun _ => ⟨congrArg Node.code (h.nodes _ (bound_byteCode hlow c)), rfl, rfl, rfl⟩ }

/-- A visit goes by the byte of the input and by the node visited, which is bound (R115). -/
theorem State.InStep.walkVisit (h : a.InStep b s t) (hp : s.phase = .cWalk) (hj : t.j = s.j)
    (hpe : t.p = s.p) (hbound : s.bound s.p) (c : Byte) :
    a.InStep b { s.walkVisit c with phase := .cWalk } (t.walkVisit c) := by
  have hnode : t.nodeAt t.p = s.nodeAt s.p := by rw [hpe, h.nodes _ hbound]
  have hf := h.found (.inl hp)
  by_cases hside : sideOf (s.nodeAt s.p) c = .eq
  · rw [walkVisit_of_eq (sideOf_eq_eq_iff.1 hside),
      walkVisit_of_eq (sideOf_eq_eq_iff.1 (hnode ▸ hside))]
    exact { h with
      phase := h.phase.trans hp
      found := fun _ => ⟨congrArg Node.code hnode, by simp only [hj, h.i], hpe, rfl⟩ }
  · rw [walkVisit_of_side_ne hside, walkVisit_of_side_ne (hnode ▸ hside)]
    exact { h with
      phase := h.phase.trans hp
      found := fun _ => ⟨hf.bestCode, hf.bestLen, hpe, by simp only [hnode]⟩ }

/-- The insertion writes the new node and the link at the miss, which are the same in both runs, and
changes no other bound node (R117). -/
theorem State.InStep.trieInsert (h : a.InStep b s t) (hm : MatchInv s) (hf : s.FoundAlike t)
    (hlow : 257 ≤ s.nextCode.toNat) (hc : s.nextCode.toNat < 4096)
    (hlt : s.i.toNat + s.bestLen.toNat < s.n.toNat) (c : Byte) :
    a.InStep b { s.trieInsert c with phase := .cAdv } { t.trieInsert c with phase := .cAdv } :=
  { h with
    phase := rfl
    nextCode := congrArg (· + 1) h.nextCode
    assigns := by
      have hslice := h.inbufSlice_eq (l := s.bestLen.toNat + 1) hlt
      simp only [trieInsert_assigns, h.assigns, h.nextCode, hf.bestLen, hslice]
    found := fun _ => { hf with }
    nodes := fun k hk => by
      have hmiss := bound_codeOfCounter_ne hc hm.miss_bound
      have hbound := (bound_succ_iff hc hlow (counter_succ hc) k).1 hk
      have hs := nodeAt_trieInsert s c k hmiss
      have ht := nodeAt_trieInsert t c k (by rwa [hf.missNode, h.nextCode])
      rw [hf.missNode, hf.missDir, h.nextCode, h.nodes _ hm.miss_bound] at ht
      refine ht.trans (Eq.trans ?_ hs.symm)
      rcases hbound with hk | hk
      · simp only [hk, hmiss.symm, if_false, if_true]
      · rw [h.nodes _ hk] }

/-! ## One step -/

/-- Every step of a run is one of the other, and leaves the two in step. -/
theorem State.InStep.move {s' : State} (h : a.InStep b s t) (hs : s.CompressRun) (ht : Inv t)
    (hm : EngineMove s s') : ∃ t', engineStep t = .next t' ∧ a.InStep b s' t' := by
  cases hm with
  | rest hp => exact ⟨t, engineStep_rest (h.phase ▸ hp), h⟩
  | matchEnd hp hi =>
    exact ⟨_, engineStep_cMatch_end (h.phase.trans hp) (by rw [h.i, h.n, hi]),
      { h with phase := rfl, found := by simp }⟩
  | matchStart hp hi ha =>
    obtain ⟨hbase, hlow⟩ := hs.inv.compressBase (.inl hp)
    have hlt := Nat.lt_of_le_of_ne hbase.i_le (mt BitVec.eq_of_toNat_eq hi)
    exact ⟨_, h.engineStep_cMatch ht hp hlt, h.walkStart hlow _⟩
  | walkEnd hp hend =>
    obtain ⟨hj, hpe⟩ := h.walking_eq hs.inv ht hp
    exact ⟨_, engineStep_cWalk_end (h.phase.trans hp) (by rw [hj, hpe, h.n]; exact hend),
      { h with phase := rfl, found := fun _ => { h.found (.inl hp) with } }⟩
  | walkVisit hp hne hnil ha =>
    obtain ⟨hj, hpe⟩ := h.walking_eq hs.inv ht hp
    obtain ⟨hjs, hps⟩ := hs.inv.compress.walking hp
    have hmatch := hs.inv.compress.matched (.inl hp)
    have hbound : s.bound s.p := hps ▸ (hs.trie.nodes _ hmatch.miss_bound).link_bound (hps ▸ hnil)
    have hlt := Nat.lt_of_le_of_ne (hjs ▸ hmatch.fits) (mt BitVec.eq_of_toNat_eq hne)
    exact ⟨_, h.engineStep_cWalk ht hp hj (hpe ▸ hnil) hlt, h.walkVisit hp hj hpe hbound _⟩
  | cEmit hp =>
    have hf := h.found (.inr (.inl hp))
    exact ⟨_, engineStep_cEmit (h.phase.trans hp),
      { h with
        phase := rfl
        events := h.events_snoc (congrArg Event.code hf.bestCode)
        codeCount := congrArg (· + 1) h.codeCount
        found := fun _ => { hf with } }⟩
  | cGrow hp hlt hc ha =>
    have hf := h.found (.inr (.inr (.inl hp)))
    have hmatch := hs.inv.compress.matched (.inr (.inr (.inl hp)))
    exact ⟨_, h.engineStep_cGrow ht hp hf hlt hc, h.trieInsert hmatch hf hs.trie.seeded hc hlt _⟩
  | cNoGrow hp hno =>
    have hf := h.found (.inr (.inr (.inl hp)))
    exact ⟨_, engineStep_cGrow_skip (h.phase.trans hp)
        (by rw [h.i, hf.bestLen, h.n, h.nextCode]; exact hno),
      { h with phase := rfl, found := fun _ => { hf with } }⟩
  | cAdv hp =>
    have hafter := h.afterMatch_eq (h.found (.inr (.inr (.inr hp))))
    exact ⟨_, engineStep_cAdv (h.phase.trans hp),
      { h with phase := rfl, byteCount := hafter, i := hafter, found := by simp }⟩
  | cEos hp =>
    exact ⟨_, engineStep_cEos (h.phase.trans hp),
      { h with
        phase := rfl
        events := h.events_snoc rfl
        codeCount := congrArg (· + 1) h.codeCount
        found := by simp }⟩
  | cClose hp =>
    exact ⟨_, engineStep_close (.inl (h.phase.trans hp)),
      { h with phase := rfl, events := h.events_snoc rfl, found := by simp }⟩
  | cSeed hp | xSeed hp | firstEos hp | firstLit hp | firstBad hp | xEmit hp | pushEnd hp
  | push hp | popEnd hp | pop hp | readEos hp | read hp | resolveEos hp | hit hp | selfref hp
  | resolveBad hp | xGrow hp | xNoGrow hp | xAdv hp | xClose hp =>
    exact absurd hs.phase (by simp [hp])
  | truncated hp => rcases hp with hp | hp <;> exact absurd hs.phase (by simp [hp])

/-! ## The whole run -/

theorem State.InStep.engineRun {m : Nat} {s' : State} (h : a.InStep b s t) (hs : s.CompressRun)
    (ht : Inv t) (hm : engineRun m s = .next s') :
    ∃ t', Machine.engineRun m t = .next t' ∧ a.InStep b s' t' := by
  induction m generalizing s t with
  | zero => cases hm; exact ⟨t, rfl, h⟩
  | succ m ih =>
    rw [Machine.engineRun] at hm
    split at hm
    · next u hu =>
      have hmove := engineStep_moves hu
      obtain ⟨v, hv, hstep⟩ := h.move hs ht hmove
      obtain ⟨t', ht', hend⟩ := ih hstep (hs.move hmove) ((engineStep_moves hv).inv ht) hm
      exact ⟨t', (engineRun_succ hv m).trans ht', hend⟩
    · cases hm
    · cases hm

/-- A run enters C_SEED with its registers clear and nothing bound (R286). -/
theorem shownAlike_of_cSeed (hs : Inv s) (ht : Inv t) (hps : s.phase = .cSeed)
    (hpt : t.phase = .cSeed) : s.ShownAlike t s t := by
  have hclear : ∀ u : State, Inv u → u.phase = .cSeed → u.cause = .none ∧ u.faultInfo = 0 :=
    fun u hu hp => hu.reg.clear_of_busy ((busy_iff u).2 (by simp [hp, Phase.mode]))
  obtain ⟨hnext, hcodes, hbytes, hself⟩ := hs.reg.seed_entry (.inl hps)
  obtain ⟨hnext', hcodes', hbytes', hself'⟩ := ht.reg.seed_entry (.inl hpt)
  obtain ⟨hcause, hinfo⟩ := hclear s hs hps
  obtain ⟨hcause', hinfo'⟩ := hclear t ht hpt
  exact
    { phase := hpt.trans hps.symm
      events := ⟨[], by simp⟩
      nextCode := hnext'.trans hnext.symm
      codeCount := hcodes'.trans hcodes.symm
      byteCount := hbytes'.trans hbytes.symm
      cause := hcause'.trans hcause.symm
      selfref := hself'.trans hself.symm
      faultInfo := hinfo'.trans hinfo.symm
      assigns := (assigns_of_cSeed ht.reg hpt).trans (assigns_of_cSeed hs.reg hps).symm }

/-- Settles O49: C_SEED puts the two runs in step, and every later step keeps them so. -/
theorem noCrossRunPersistence : Obligations.NoCrossRunPersistence := by
  intro s t s' m hs ht hps hpt hn hin hm
  have hstart := shownAlike_of_cSeed hs ht hps hpt
  have hend : ∃ t', engineRun m t = .next t' ∧ s.ShownAlike t s' t' := by
    cases m with
    | zero => cases hm; exact ⟨t, rfl, hstart⟩
    | succ m =>
      rw [engineRun_succ (engineStep_cSeed hps)] at hm
      obtain ⟨t', ht', h⟩ := (inStep_seeded hstart hn.symm hin.symm).engineRun
        (compressRun_seeded hs hps) ((EngineMove.cSeed hpt).inv ht) hm
      exact ⟨t', (engineRun_succ (engineStep_cSeed hpt) m).trans ht', h.toShownAlike⟩
  obtain ⟨t', ht', h⟩ := hend
  obtain ⟨es, hes, hes'⟩ := h.events
  exact ⟨t', es, ht', h.phase, hes, hes', h.nextCode, h.codeCount, h.byteCount, h.cause, h.selfref,
    h.faultInfo, h.assigns⟩

end Sys2Proof.Machine
end

section
/-! The host's moves beside a run in progress (70_reset R292): they write only what no phase of the run
reads or writes, so each phase is the same step whatever that holds. -/

namespace Sys2Proof.Machine

/-! ## Beside a compress run -/

/-- `s` with what a compress run does not read taken from `u`: IN_LEN, the code source and its position,
and the model's logs. -/
def State.besideCompress (u s : State) : State :=
  { s with
    inLen := u.inLen, replies := u.replies, draws := u.draws, source := u.source, srcPos := u.srcPos }

theorem walkVisit_besideCompress (u s : State) (b : Byte) :
    (u.besideCompress s).walkVisit b = u.besideCompress (s.walkVisit b) := by
  by_cases hside : sideOf (s.nodeAt s.p) b = .eq
  · rw [walkVisit_of_eq (sideOf_eq_eq_iff.1 hside),
      walkVisit_of_eq (s := u.besideCompress s) (sideOf_eq_eq_iff.1 hside)]
    rfl
  · rw [walkVisit_of_side_ne hside, walkVisit_of_side_ne (s := u.besideCompress s) hside]
    rfl

theorem phaseCMatch_besideCompress (u s : State) :
    phaseCMatch (u.besideCompress s) = onNext u.besideCompress (phaseCMatch s) := by
  rw [phaseCMatch, phaseCMatch, apply_ite (onNext _)]
  refine if_congr Iff.rfl rfl ?_
  have hbyte : (u.besideCompress s).engineByte (u.besideCompress s).i = s.engineByte s.i := rfl
  rw [hbyte]
  cases s.engineByte s.i <;> rfl

theorem phaseCWalk_besideCompress (u s : State) :
    phaseCWalk (u.besideCompress s) = onNext u.besideCompress (phaseCWalk s) := by
  rw [phaseCWalk, phaseCWalk, apply_ite (onNext _)]
  refine if_congr Iff.rfl rfl ?_
  have hbyte : (u.besideCompress s).engineByte (u.besideCompress s).j = s.engineByte s.j := rfl
  rw [hbyte]
  cases s.engineByte s.j with
  | none => rfl
  | some b => simp only [walkVisit_besideCompress]; rfl

theorem phaseCGrow_besideCompress (u s : State) :
    phaseCGrow (u.besideCompress s) = onNext u.besideCompress (phaseCGrow s) := by
  rw [phaseCGrow, phaseCGrow, apply_ite (onNext _)]
  refine if_congr Iff.rfl ?_ rfl
  have hbyte : (u.besideCompress s).engineByte (u.besideCompress s).afterMatch =
    s.engineByte s.afterMatch := rfl
  rw [hbyte]
  cases s.engineByte s.afterMatch <;> rfl

/-- No phase of a compress run reads what its host may change beside it (R292). -/
theorem engineStep_besideCompress (u : State) {s : State} (hm : s.phase.mode = .compressing) :
    engineStep (u.besideCompress s) = onNext u.besideCompress (engineStep s) := by
  have hphase : (u.besideCompress s).phase = s.phase := rfl
  rcases (mode_compressing _).1 hm with hp | hp | hp | hp | hp | hp | hp | hp <;>
    simp only [engineStep, hphase, hp]
  · rfl
  · exact phaseCMatch_besideCompress u s
  · exact phaseCWalk_besideCompress u s
  · rfl
  · exact phaseCGrow_besideCompress u s
  · rfl
  · rfl
  · rfl

/-! ## Beside an expand run -/

/-- `s` with what an expand run does not read taken from `u`: IN_LEN, INBUF, and the model's logs. -/
def State.besideExpand (u s : State) : State :=
  { s with inLen := u.inLen, replies := u.replies, draws := u.draws, inbuf := u.inbuf }

theorem takeFault_besideExpand (u s : State) (c : Cause) (x : Code) :
    (u.besideExpand s).takeFault c x = u.besideExpand (s.takeFault c x) := by
  have hbusy : (u.besideExpand s).busy = s.busy := rfl
  rw [State.takeFault, State.takeFault, hbusy]
  cases s.busy <;> rfl

theorem tabAppend_besideExpand (u s : State) :
    (u.besideExpand s).tabAppend = u.besideExpand s.tabAppend := by
  have hseq : (u.besideExpand s).seqOf (u.besideExpand s).cur = s.seqOf s.cur :=
    seqOf_congr (s := s) (t := u.besideExpand s) (fun _ => rfl) s.cur
  rw [State.tabAppend, State.tabAppend, hseq]
  rfl

/-- A row whose context and effect do not speak of what `f` changes commutes with it. -/
theorem inContext_onNext (f : State → State) (ok : Bool) (t : State) :
    inContext ok (f t) = onNext f (inContext ok t) := by
  cases ok <;> rfl

theorem exec_decodeFirst_besideExpand (u s : State) (k : Code) :
    exec (decodeFirst k) (u.besideExpand s) = onNext u.besideExpand (exec (decodeFirst k) s) := by
  unfold decodeFirst
  split_ifs
  case pos => exact inContext_onNext u.besideExpand _ { s with phase := .xClose }
  case pos =>
    exact inContext_onNext u.besideExpand _ { s with cur := byteCode (k.setWidth 8), phase := .xEmit }
  case neg =>
    rw [exec, execCwFirstBad, takeFault_besideExpand]
    exact inContext_onNext _ _ _

theorem exec_decodeNext_besideExpand (u s : State) (nc : Counter) (k : Code) :
    exec (decodeNext nc k) (u.besideExpand s) = onNext u.besideExpand (exec (decodeNext nc k) s) := by
  unfold decodeNext
  split_ifs
  case pos => exact inContext_onNext u.besideExpand _ { s with phase := .xClose }
  case pos => exact inContext_onNext u.besideExpand _ { s with nfirst := s.firstOf k, phase := .xGrow }
  case pos =>
    exact inContext_onNext u.besideExpand _
      { s with nfirst := s.firstOf s.cur, selfref := true, phase := .xGrow }
  case neg =>
    rw [exec, execCwNextBad, takeFault_besideExpand]
    exact inContext_onNext _ _ _

theorem phaseXFirst_besideExpand (u s : State) :
    phaseXFirst (u.besideExpand s) = onNext u.besideExpand (phaseXFirst s) := by
  have hcode : (u.besideExpand s).srcCode = s.srcCode := rfl
  rw [phaseXFirst, phaseXFirst, hcode]
  cases s.srcCode with
  | none => exact congrArg Host.Outcome.next (takeFault_besideExpand u s .truncated 0)
  | some k => exact exec_decodeFirst_besideExpand u (s.takeCode k) k

theorem phaseXRead_besideExpand (u s : State) :
    phaseXRead (u.besideExpand s) = onNext u.besideExpand (phaseXRead s) := by
  have hcode : (u.besideExpand s).srcCode = s.srcCode := rfl
  rw [phaseXRead, phaseXRead, hcode]
  cases s.srcCode with
  | none => exact congrArg Host.Outcome.next (takeFault_besideExpand u s .truncated 0)
  | some k =>
    simp only [apply_ite (onNext _)]
    exact if_congr Iff.rfl
      (inContext_onNext u.besideExpand _ { s.takeCode k with phase := .xClose }) rfl

theorem phaseXPush_besideExpand (u s : State) :
    phaseXPush (u.besideExpand s) = onNext u.besideExpand (phaseXPush s) := by
  rw [phaseXPush, phaseXPush, apply_ite (onNext _), apply_ite (onNext _)]
  rfl

theorem phaseXPop_besideExpand (u s : State) :
    phaseXPop (u.besideExpand s) = onNext u.besideExpand (phaseXPop s) := by
  rw [phaseXPop, phaseXPop, apply_ite (onNext _), apply_ite (onNext _)]
  rfl

theorem phaseXGrow_besideExpand (u s : State) :
    phaseXGrow (u.besideExpand s) = onNext u.besideExpand (phaseXGrow s) := by
  have hnext : (u.besideExpand s).nextCode = s.nextCode := rfl
  rw [phaseXGrow, phaseXGrow, tabAppend_besideExpand, hnext]
  split <;> rfl

/-- No phase of an expand run reads what its host may change beside it (R292). -/
theorem engineStep_besideExpand (u : State) {s : State} (hm : s.phase.mode = .expanding) :
    engineStep (u.besideExpand s) = onNext u.besideExpand (engineStep s) := by
  have hphase : (u.besideExpand s).phase = s.phase := rfl
  rcases (mode_expanding _).1 hm with hp | hp | hp | hp | hp | hp | hp | hp | hp | hp <;>
    simp only [engineStep, hphase, hp]
  · rfl
  · exact phaseXFirst_besideExpand u s
  · rfl
  · exact phaseXPush_besideExpand u s
  · exact phaseXPop_besideExpand u s
  · exact phaseXRead_besideExpand u s
  · exact exec_decodeNext_besideExpand u s s.nextCode s.k
  · exact phaseXGrow_besideExpand u s
  · rfl
  · rfl

/-! ## The host's moves -/

/-- Beside a compress run the host writes no more than the run does not read (R62, R223). -/
theorem HostEffect.besideCompress {m : HostMove} {s t : State} (he : HostEffect m s t)
    (hr : m ≠ .reset) (hc : ∀ v, m ≠ .regWrite 0 v) (hm : s.phase.mode = .compressing) :
    t = t.besideCompress s := by
  cases he with
  | cmd v h => exact absurd h (hc v)
  | reset h => exact absurd h hr
  | bufWrite _ _ _ hne => exact absurd hm hne
  | regRead | inLen | ignored | bufRead | dropped | attach => rfl

/-- Beside an expand run the host writes no more than the run does not read (R239). -/
theorem HostEffect.besideExpand {m : HostMove} {s t : State} (he : HostEffect m s t)
    (hr : m ≠ .reset) (hc : ∀ v, m ≠ .regWrite 0 v) (hm : s.phase.mode = .expanding) :
    t = t.besideExpand s := by
  cases he with
  | cmd v h => exact absurd h (hc v)
  | reset h => exact absurd h hr
  | attach _ _ hne => exact absurd hm hne
  | regRead | inLen | ignored | bufRead | dropped | bufWrite => rfl

/-- Settles O55: the effects of the moves, and that every phase is the same step beside them; the state whose
IN_LEN, source, INBUF and logs are taken is `s` with the given ones. -/
theorem passiveHostMoves : Obligations.PassiveHostMoves := by
  refine ⟨fun s t m ht hr hc => ?moves, fun s l rs d src pos hm => ?compress,
    fun s l rs d buf hm => ?expand⟩
  case moves =>
    have he := hostMove_effects ht
    exact ⟨he.besideCompress hr hc, he.besideExpand hr hc⟩
  case compress =>
    exact engineStep_besideCompress
      { s with inLen := l, replies := rs, draws := d, source := src, srcPos := pos } hm
  case expand =>
    exact engineStep_besideExpand { s with inLen := l, replies := rs, draws := d, inbuf := buf } hm

end Sys2Proof.Machine
end
